-- ==== Sys2Proof/Word.lean ====
section
/-! DEFINITION. The word types of wasm303 CORE: bytes, u32, u64, the number formats and the values of a format, held as their encodings (00_scope.md R7, R9, R12). -/

namespace Sys2Proof

/-- An unsigned byte (R9). -/
abbrev U8 := BitVec 8

/-- An unsigned 32-bit integer (R9). -/
abbrev U32 := BitVec 32

/-- An unsigned 64-bit integer (R9). -/
abbrev U64 := BitVec 64

/-- An IEEE 754 binary format: the widths of its fraction and exponent fields. The format REAL of the engine's
computations is a parameter of the model (R7), and this is the type of its choices. -/
structure Format where
  fracBits : Nat
  expBits : Nat
deriving DecidableEq, Repr

/-- binary32: the format of F operands and of output samples (R10, R84), and the decided REAL (D7). -/
@[reducible] def binary32 : Format := ⟨23, 8⟩

/-- binary64, in which the wavetable is computed (R220). -/
@[reducible] def binary64 : Format := ⟨52, 11⟩

/-- The bits of an encoding: the sign, the exponent and the fraction. -/
abbrev Format.width (F : Format) : Nat := 1 + F.expBits + F.fracBits

/-- A value of a format, held as its encoding. -/
abbrev REAL (F : Format) := BitVec F.width

/-- A binary32 value. An F operand is one "with every bit pattern ... as it stands" (R112), so `f32_of_bits` (R10)
is the identity; and it is the REAL value of the decided engine (D7). -/
abbrev F32 := REAL binary32

/-- A binary64 value (R220). -/
abbrev F64 := REAL binary64

end Sys2Proof
end

