-- ==== Sys2Proof/Machine/Exact.lean ====
section
/-! DEFINITION. Exact arithmetic on the data of a number format, and rounding to a format (00_scope.md R12): on integers, to nearest with ties to even. -/

namespace Sys2Proof.Machine

/-! ## Unpacked numbers and rounding -/

/-- The magnitude code of infinity: all exponent bits 1, fraction 0. -/
def infCode (f : Format) : Nat := (2 ^ f.expBits - 1) * 2 ^ f.fracBits

/-- The weight of the sign bit. -/
def signWeight (f : Format) : Nat := 2 ^ (f.fracBits + f.expBits)

/-- The exponent of the smallest quantum: that of the subnormals. -/
def minQuantum (f : Format) : Int := 2 - 2 ^ (f.expBits - 1) - f.fracBits

/-- A datum taken apart: `fin neg m e` is (-1)^neg · m · 2^e, exactly. -/
inductive Num where
  | nan
  | inf (neg : Bool)
  | fin (neg : Bool) (m : Nat) (e : Int)
deriving DecidableEq, Repr

/-- The datum that a code of the format stands for. -/
def unpack (f : Format) (code : Nat) : Num :=
  let neg : Bool := code / signWeight f % 2 == 1
  let mag := code % signWeight f
  if infCode f < mag then .nan
  else if mag = infCode f then .inf neg
  else
    let ex := mag / 2 ^ f.fracBits
    let fr := mag % 2 ^ f.fracBits
    if ex = 0 then .fin neg fr (minQuantum f)
    else .fin neg (2 ^ f.fracBits + fr) (minQuantum f + (ex - 1 : Nat))

/-- `m / 2^k` rounded to the nearest integer, ties to even. -/
def roundShift (m k : Nat) : Nat :=
  let q := m / 2 ^ k
  let r := m % 2 ^ k
  if 2 ^ k < 2 * r ∨ (2 * r = 2 ^ k ∧ q % 2 = 1) then q + 1 else q

/-- The magnitude code of m · 2^e rounded to the format, to nearest with ties to even; what exceeds the
finite range becomes infinity. -/
def roundCode (f : Format) (m : Nat) (e : Int) : Nat :=
  if m = 0 then 0
  else
    let q := max (e + Nat.log2 m - f.fracBits) (minQuantum f)
    let sig := if q ≤ e then m * 2 ^ (e - q).toNat else roundShift m (q - e).toNat
    if sig < 2 ^ f.fracBits then sig
    else min (((q - minQuantum f).toNat + 1) * 2 ^ f.fracBits + (sig - 2 ^ f.fracBits)) (infCode f)

/-- A magnitude code with its sign. -/
def withSign (f : Format) (neg : Bool) (mag : Nat) : Nat :=
  (if neg then signWeight f else 0) + mag

/-! ## Exact operations

Each gives the exact result, but for quotients and roots: these keep more bits than any format and a
last bit that says whether anything was cut off, so that rounding them once gives the rounded exact
result. -/

/-- The value m · 2^e at the exponent `e' ≤ e`, as a signed integer. -/
def alignedInt (neg : Bool) (m : Nat) (e e' : Int) : Int :=
  let v : Int := (m * 2 ^ (e - e').toNat : Nat)
  if neg then -v else v

def exactAdd : Num → Num → Num
  | .nan, _ => .nan
  | _, .nan => .nan
  | .inf a, .inf b => if a = b then .inf a else .nan
  | .inf a, .fin .. => .inf a
  | .fin .., .inf b => .inf b
  | .fin a m e, .fin b n d =>
    let q := min e d
    let sum := alignedInt a m e q + alignedInt b n d q
    if sum = 0 then .fin (a && b) 0 q else .fin (decide (sum < 0)) sum.natAbs q

def exactNeg : Num → Num
  | .nan => .nan
  | .inf a => .inf (!a)
  | .fin a m e => .fin (!a) m e

def exactMul : Num → Num → Num
  | .nan, _ => .nan
  | _, .nan => .nan
  | .inf a, .inf b => .inf (a != b)
  | .inf a, .fin b n _ => if n = 0 then .nan else .inf (a != b)
  | .fin a m _, .inf b => if m = 0 then .nan else .inf (a != b)
  | .fin a m e, .fin b n d => .fin (a != b) (m * n) (e + d)

/-- The quotient of two natural numbers at scale: `(q, -k)` for which `q * 2^(-k)` rounds to a format of that many
fraction bits as `m / n` does. -/
def scaledQuotient (fracBits m n : Nat) : Nat × Int :=
  let k := fracBits + 3 + Nat.log2 n
  let cut := if m * 2 ^ k % n = 0 then 0 else 1
  (2 * (m * 2 ^ k / n) + cut, -(k + 1 : Nat))

def exactDiv (f : Format) : Num → Num → Num
  | .nan, _ => .nan
  | _, .nan => .nan
  | .inf _, .inf _ => .nan
  | .inf a, .fin b _ _ => .inf (a != b)
  | .fin a _ _, .inf b => .fin (a != b) 0 0
  | .fin a m e, .fin b n d =>
    if n = 0 then (if m = 0 then .nan else .inf (a != b))
    else .fin (a != b) (scaledQuotient f.fracBits m n).1 (e - d + (scaledQuotient f.fracBits m n).2)

/-- The integer square root of `n`, found bit by bit: the root so far is `r`, and bits below `k` are open. -/
def isqrtFrom (n : Nat) : Nat → Nat → Nat
  | 0, r => r
  | k + 1, r => if (r + 2 ^ k) * (r + 2 ^ k) ≤ n then isqrtFrom n k (r + 2 ^ k) else isqrtFrom n k r

def isqrt (n : Nat) : Nat := isqrtFrom n (Nat.log2 n / 2 + 1) 0

def exactSqrt (f : Format) : Num → Num
  | .nan => .nan
  | .inf a => if a then .nan else .inf false
  | .fin a m e =>
    if m = 0 then .fin a 0 0
    else if a then .nan
    else
      let k := 2 * (f.fracBits + 2) + (e % 2).toNat
      let n := m * 2 ^ k
      let r := isqrt n
      let cut := if r * r = n then 0 else 1
      .fin false (2 * r + cut) ((e - k) / 2 - 1)

/-- The greatest integer not above the value; a zero keeps its sign. -/
def exactFloor : Num → Num
  | .nan => .nan
  | .inf a => .inf a
  | .fin a m e =>
    if 0 ≤ e then .fin a m e
    else
      let d := 2 ^ (-e).toNat
      .fin a (if a then (m + d - 1) / d else m / d) 0

/-! ## Encodings -/

/-- The encoding of a signed magnitude. -/
def encoded (F : Format) (neg : Bool) (mag : Nat) : REAL F := BitVec.ofNat F.width (withSign F neg mag)

/-- The value of a format nearest the natural number `n`. It is irreducible, as the operations of Ieee.lean are. -/
@[irreducible] def fnat {F : Format} (n : Nat) : REAL F := encoded F false (roundCode F n 0)

/-- The value of a format nearest the integer `z`. -/
@[irreducible] def fint {F : Format} (z : Int) : REAL F := encoded F (decide (z < 0)) (roundCode F z.natAbs 0)

/-- The value of a format nearest n/d, for `d ≠ 0`: a decimal constant of the spec, rounded once. -/
@[irreducible] def fratio {F : Format} (n d : Nat) : REAL F :=
  encoded F false (roundCode F (scaledQuotient F.fracBits n d).1 (scaledQuotient F.fracBits n d).2)

end Sys2Proof.Machine
end

