-- ==== Sys2Proof/Config.lean ====
section
/-! DEFINITION. The implementation parameters that fix one engine (00_scope.md R7, R8), as plain data that the machine takes as an argument, and the open values of the spec (R13, 93 I6, I23), which are opaque. -/

namespace Sys2Proof

open Sys2Proof.Machine (fnat fratio)

namespace Config

/-! ## The parameters that D0 fixes: "only a D0-fixed value is normative" (R7) -/

/-- NWAVES, the waveform shapes: 0 = saw, 1 = square (R7). -/
abbrev numWaves : Nat := 2
/-- NOTES, the note numbers the wavetable covers (R7). -/
abbrev numNotes : Nat := 128
/-- CTRL_PERIOD, the control-rate period in samples (R7). -/
abbrev ctrlPeriod : Nat := 64
/-- MAX_STEPS, the maximum pattern length (R7). -/
abbrev maxSteps : Nat := 16

end Config

/-- The implementation parameters of one engine that the spec decides and D0 does not (R7): "The model takes
the parameters below as arguments", so every definition that needs one has an `EngineConfig` among its arguments. The
last of them, REAL, is the argument `F` of this type and of every other that holds a REAL value; the decided one is
binary32 (D7), which `State` and `decidedConfig` take where none is given. Each field's given value is the spec's
decision (log 7), a REAL one the value nearest the decimal of R7 (95_test_vectors.md section 0; log 8). -/
structure EngineConfig (F : Format) where
  /-- SR, the sample rate in Hz (R7, D3). -/
  sampleRate : Nat := 44100
  /-- TABLE_LEN, the wavetable cycle length in entries (R7, D4). -/
  tableLen : Nat := 2048
  /-- BLOCK_LEN, the samples of one `process` call (R7, D5). -/
  blockLen : Nat := 128
  /-- CMD_CAP, the command buffer's capacity in bytes (R7, D6). -/
  cmdCap : Nat := 1024
  /-- NOTIFY_CAP, the notification stream's capacity in bytes: 5 × BLOCK_LEN is the decision (R7, D12). -/
  notifyCap : Nat := 5 * blockLen
  /-- NUM_PATTERNS, the patterns of the bank (R7, D17). -/
  numPatterns : Nat := 16
  /-- GLIDE_TICKS, the control ticks a slide lasts (R7, D24, C6). -/
  glideTicks : Nat := 1
  /-- DENORMAL_BIAS, 1.0e-18 (R7, D30). -/
  denormalBias : REAL F := fratio 1 (10 ^ 18)
  /-- FB_HP_HZ, 150 (R7, D40). -/
  fbHpHz : REAL F := fnat 150
  /-- HP1_HZ, 44.486 (R7, D41). -/
  hp1Hz : REAL F := fratio 44486 1000
  /-- AP_HZ, 14.008 (R7, D41). -/
  apHz : REAL F := fratio 14008 1000
  /-- HP2_HZ, 24.167 (R7, D41). -/
  hp2Hz : REAL F := fratio 24167 1000
  /-- NOTCH_HZ, 7.5164 (R7, D41). -/
  notchHz : REAL F := fratio 75164 10000
  /-- NOTCH_BW, 4.7 octaves (R7, D41). -/
  notchBw : REAL F := fratio 47 10
  /-- DECLICK_HZ, 200 (R7, D42). -/
  declickHz : REAL F := fnat 200
  /-- DECLICK_Q, 1/sqrt(2), to 40 decimals (R7, D42). -/
  declickQ : REAL F := fratio 7071067811865475244008443621048490392848 (10 ^ 40)
  /-- F_MAX, 20000 (R7, D47). -/
  fMax : REAL F := fnat 20000
  /-- ENV_MOD_OCT, 4 (R7, D47). -/
  envModOct : REAL F := fnat 4
  /-- ACCENT_MOD_OCT, 2 (R7, D47). -/
  accentModOct : REAL F := fnat 2
  /-- ACCENT_DECAY_MS, 200 (R7, D44). -/
  accentDecayMs : REAL F := fnat 200
  /-- MOORER_EPS, 1.0e-5 (R7, D37). -/
  moorerEps : REAL F := fratio 1 (10 ^ 5)
deriving DecidableEq, Repr

/-- The parameters at the values of R7's decision column. -/
def decidedConfig (F : Format := binary32) : EngineConfig F := {}

/-- DELAY_CAP, the delay buffer's capacity in samples: "2 seconds at SR, i.e. 2 × SR" (R7, R56). -/
def delayCap {F : Format} (c : EngineConfig F) : Nat := 2 * c.sampleRate

namespace Config

/-! ## Transcendental fields (R13, I6; log 3)

Each is "a total function of its operands alone, of which nothing else is assumed", one for each format: the engine
computes in REAL, and its wavetable in binary64 (R220; log 9). -/

opaque exp {F : Format} : REAL F → REAL F
opaque pow {F : Format} : REAL F → REAL F → REAL F
opaque sin {F : Format} : REAL F → REAL F
opaque cos {F : Format} : REAL F → REAL F
opaque tan {F : Format} : REAL F → REAL F
opaque sinh {F : Format} : REAL F → REAL F
opaque asin {F : Format} : REAL F → REAL F
/-- `atan2 y x`. -/
opaque atan2 {F : Format} : REAL F → REAL F → REAL F
opaque log {F : Format} : REAL F → REAL F

/-! ## Open values of the arithmetic -/

/-- The operations that can give a NaN. -/
inductive RealOp where
  | add | sub | mul | div | sqrt | floor | abs | neg
deriving DecidableEq, Repr

/-- The NaN that an operation gives: its payload and sign are "any value" (I23; log 4). `nanResult`
keeps of it only what is a NaN. -/
opaque nanDraw {F : Format} : RealOp → REAL F → REAL F → REAL F
/-- The NaN that a conversion from one format to another gives (I23; log 4). -/
opaque nanConvert {G F : Format} : REAL G → REAL F
/-- Which operand `min` and `max` return when the operands do not compare (one is a NaN): R12 says that
an operand is returned and not which (log 5). True is the first. -/
opaque minTakesFirst {F : Format} : REAL F → REAL F → Bool
opaque maxTakesFirst {F : Format} : REAL F → REAL F → Bool
/-- `floor_u32` outside the non-negative operands for which R12 states it (log 6). -/
opaque floorU32Open {F : Format} : REAL F → U32
/-- The harmonic limit that a NaN quotient gives in R220, which states none (log 9). -/
opaque harmonicsOpen : Nat → Nat

/-! ## The Moorer designs' formulas (R272, D34, 93 I12; log 17)

The spec gives no formulas, so these are parameter functions. What it does give, the branch rule of R273 and the
guard of R274, is not left to them: Machine/Moorer.lean applies both. -/

/-- The six raw values of a biquad design (R258). -/
structure BiquadRaw (F : Format) where
  B0 : REAL F
  B1 : REAL F
  B2 : REAL F
  A0 : REAL F
  A1 : REAL F
  A2 : REAL F
deriving DecidableEq, Repr, Inhabited

/-- The three designs (R272). -/
inductive MoorerDesign where
  | presence
  | lowShelf
  | highShelf
deriving DecidableEq, Repr

/-- What a design's formulas are functions of: "(fc, gainDb, bw)" (R272), and the engine's sample rate, to which
they normalise (93 I12). -/
structure MoorerInput (F : Format) where
  sampleRate : Nat
  fc : REAL F
  gainDb : REAL F
  bw : REAL F
deriving DecidableEq, Repr

/-- The two candidate roots of the band-edge solve: "Call the principal root θp. Call the other root θs; it exists
when the arcsine branch gives one" (R273). -/
structure MoorerRoots (F : Format) where
  principal : REAL F
  other : Option (REAL F)
deriving DecidableEq, Repr, Inhabited

/-- A place where a formula divides: its denominator, the fallback "that the formula names", and what the formula
makes of the division (R274). -/
structure GuardedDivision (F : Format) where
  denominator : REAL F
  fallback : REAL F
  value : REAL F
deriving DecidableEq, Repr, Inhabited

/-- The roots of the presence design's band-edge solve. -/
opaque moorerRoots {F : Format} : MoorerInput F → MoorerRoots F
/-- How many divisions a design's formulas make. -/
opaque moorerDivisions : MoorerDesign → Nat
/-- A design's next division, from its band edge (the angle that R273 selects, for the presence) and what the
divisions before it have given. -/
opaque moorerDivision {F : Format} :
  MoorerDesign → MoorerInput F → Option (REAL F) → List (REAL F) → GuardedDivision F
/-- A design's raw values, from its band edge and what all its divisions have given. -/
opaque moorerRaw {F : Format} : MoorerDesign → MoorerInput F → Option (REAL F) → List (REAL F) → BiquadRaw F

end Config

end Sys2Proof
end

