-- ==== Sys2Proof/Syntax.lean ====
section
/-! DEFINITION. The instructions of wasm303-cmd: one constructor for each row of spec/opcode_table.json (30_encoding.md R113). -/

namespace Sys2Proof

/-- One decoded instruction: its opcode and its operand (R20, R110). An operand is kept whole, because
the log records "the raw u32 operand" (R432); `Machine/Operands.lean` takes the packed ones apart. -/
inductive Instr where
  /-- No operation, and every unassigned code (R148, R115). -/
  | nop
  /-- `SetWaveform u` (R230). -/
  | setWaveform (u : U32)
  /-- `SetRunning u` (R180). -/
  | setRunning (u : U32)
  /-- `SetStep u`, packed as R118 says (R182). -/
  | setStep (u : U32)
  /-- `SetPatternLength u`, packed as R119 says (R183). -/
  | setPatternLength (u : U32)
  /-- `SetNextPattern u` (R184). -/
  | setNextPattern (u : U32)
  /-- `SetDelayLength u` (R354). -/
  | setDelayLength (u : U32)
  /-- `SetCutoff v` (R320). -/
  | setCutoff (v : F32)
  /-- `SetResonance v` (R321). -/
  | setResonance (v : F32)
  /-- `SetEnvMod v` (R322). -/
  | setEnvMod (v : F32)
  /-- `SetDecay v` (R410). -/
  | setDecay (v : F32)
  /-- `SetAccent v` (R411). -/
  | setAccent (v : F32)
  /-- `SetDistortionShape v` (R350). -/
  | setDistortionShape (v : F32)
  /-- `SetDistortionThreshold v` (R351). -/
  | setDistortionThreshold (v : F32)
  /-- `SetDelaySend v` (R352). -/
  | setDelaySend (v : F32)
  /-- `SetDelayFeedback v` (R353). -/
  | setDelayFeedback (v : F32)
  /-- `SetTempo v` (R181). -/
  | setTempo (v : F32)
  /-- `StepChanged u`, a notification, consumed as no operation (R149). -/
  | stepChanged (u : U32)
deriving DecidableEq, Repr

end Sys2Proof
end

