-- ==== Sys2Proof/WellFormed.lean ====
section
/-! DEFINITION. Well-formed instructions: what the spec asks of a host that writes one. The decoder and the machine take every instruction, well-formed or not. -/

namespace Sys2Proof

/-- The reserved fields of the packed operands are 0: "the host should write 0 there" (R118), and bits
23:8 of a `SetPatternLength` are reserved (R119). The other operands are whole words with no fields
(R120, R112). -/
def Instr.reservedClear : Instr → Bool
  | .setStep u => u.extractLsb' 13 3 == 0#3 && u.extractLsb' 20 4 == 0#4
  | .setPatternLength u => u.extractLsb' 8 16 == 0#16
  | _ => true

/-- The instruction is one of the host's controls or a no-op, not a notification, which is "emitted by
the engine, not consumed from it" (R111, R117). -/
def Instr.fromHost : Instr → Bool
  | .stepChanged _ => false
  | _ => true

/-- What the spec asks of an instruction that a host writes. -/
def Instr.wellFormed (i : Instr) : Bool :=
  i.reservedClear && i.fromHost

end Sys2Proof
end

