-- ==== Sys2Proof/Decode.lean ====
section
/-! DEFINITION. Decoding (30_encoding.md, 40_decoder.md R142 to R145): total on any bytes, and an encoder written from the same tables. -/

namespace Sys2Proof

/-- `le32(b0, b1, b2, b3)`: b0 is the least significant byte (R10, R82). -/
def le32 (b0 b1 b2 b3 : U8) : U32 := b3 ++ b2 ++ b1 ++ b0

/-- The four bytes of a u32, least significant first (R82, R110). -/
def bytesOf32 (u : U32) : List U8 :=
  [u.extractLsb' 0 8, u.extractLsb' 8 8, u.extractLsb' 16 8, u.extractLsb' 24 8]

/-- The instruction that an assigned code of format U or F makes of its operand, and none for code 0 and
for every unassigned code (R113, R115). -/
def assigned (c : U8) (u : U32) : Option Instr :=
  match c.toNat with
  | 20 => some (.setWaveform u)
  | 21 => some (.setRunning u)
  | 22 => some (.setStep u)
  | 23 => some (.setPatternLength u)
  | 24 => some (.setNextPattern u)
  | 25 => some (.setDelayLength u)
  | 40 => some (.setCutoff u)
  | 41 => some (.setResonance u)
  | 42 => some (.setEnvMod u)
  | 43 => some (.setDecay u)
  | 44 => some (.setAccent u)
  | 45 => some (.setDistortionShape u)
  | 46 => some (.setDistortionThreshold u)
  | 47 => some (.setDelaySend u)
  | 48 => some (.setDelayFeedback u)
  | 49 => some (.setTempo u)
  | 60 => some (.stepChanged u)
  | _ => none

/-- The operand bytes that follow a code: 4 for the codes listed with format U or F, else 0 (R114). -/
def arity (c : U8) : Nat :=
  let n := c.toNat
  if (20 ≤ n ∧ n ≤ 25) ∨ (40 ≤ n ∧ n ≤ 49) ∨ n = 60 then 4 else 0

/-- Why the decode phase ends at a place (R142). -/
inductive DecodeStop where
  /-- No byte is left before the cursor: "stream exhausted" (R142). -/
  | exhausted
  /-- The operand of this code does not fit before the cursor: a "truncated trailing instruction" (R144). -/
  | truncated (code : U8)
deriving DecidableEq, Repr

/-- One decode step over the bytes that stand before the cursor (R142): the instruction and the bytes
after it, or why there is none. The length is fixed by the opcode byte alone (R114, R121). -/
def decode : List U8 → Except DecodeStop (Instr × List U8)
  | [] => .error .exhausted
  | c :: tl =>
    if arity c = 0 then .ok (.nop, tl)
    else
      match tl with
      | b0 :: b1 :: b2 :: b3 :: rest => .ok ((assigned c (le32 b0 b1 b2 b3)).getD .nop, rest)
      | _ => .error (.truncated c)

/-- The code of an instruction (R113). -/
def Instr.code : Instr → U8
  | .nop => 0
  | .setWaveform _ => 20
  | .setRunning _ => 21
  | .setStep _ => 22
  | .setPatternLength _ => 23
  | .setNextPattern _ => 24
  | .setDelayLength _ => 25
  | .setCutoff _ => 40
  | .setResonance _ => 41
  | .setEnvMod _ => 42
  | .setDecay _ => 43
  | .setAccent _ => 44
  | .setDistortionShape _ => 45
  | .setDistortionThreshold _ => 46
  | .setDelaySend _ => 47
  | .setDelayFeedback _ => 48
  | .setTempo _ => 49
  | .stepChanged _ => 60

/-- The operand word of an instruction, none in format N (R110). -/
def Instr.operand : Instr → Option U32
  | .nop => none
  | .setWaveform u | .setRunning u | .setStep u | .setPatternLength u | .setNextPattern u
  | .setDelayLength u | .setCutoff u | .setResonance u | .setEnvMod u | .setDecay u | .setAccent u
  | .setDistortionShape u | .setDistortionThreshold u | .setDelaySend u | .setDelayFeedback u
  | .setTempo u | .stepChanged u => some u

/-- The bytes of an instruction: the code, then the operand's four bytes if it has one (R110). -/
def encode (i : Instr) : List U8 :=
  i.code :: (i.operand.elim [] bytesOf32)

/-- The length of an instruction in bytes, 1 or 5 (R110, R121). -/
def Instr.size (i : Instr) : Nat :=
  match i.operand with
  | none => 1
  | some _ => 5

/-- The decode steps of at most `fuel` instructions, in stream order (R142, R143). -/
def decodeUpTo : Nat → List U8 → List Instr
  | 0, _ => []
  | fuel + 1, bs =>
    match decode bs with
    | .ok (i, rest) => i :: decodeUpTo fuel rest
    | .error _ => []

/-- The instructions that a whole decode phase yields from the bytes before the cursor (R142). Every
step consumes a byte, so as many steps as bytes are enough (R145). -/
def decodeStream (bs : List U8) : List Instr := decodeUpTo bs.length bs

/-- The five bytes of the opcode table's word `w` of `nbits` bits: byte k is bits 8k+7..8k, and every
bit above `nbits` is 0. -/
def tableBytes (nbits w : Nat) : List U8 :=
  let v := w % 2 ^ nbits
  [BitVec.ofNat 8 v, BitVec.ofNat 8 (v / 2 ^ 8), BitVec.ofNat 8 (v / 2 ^ 16), BitVec.ofNat 8 (v / 2 ^ 24),
   BitVec.ofNat 8 (v / 2 ^ 32)]

/-- The instruction that `decode` reads from an opcode-table word. -/
def decodeTableWord (nbits w : Nat) : Option Instr :=
  match decode (tableBytes nbits w) with
  | .ok (i, _) => some i
  | .error _ => none

end Sys2Proof
end

