-- ==== Sys2Proof/Machine/Ieee.lean ====
section
/-! DEFINITION. The arithmetic of a number format (00_scope.md R12): every operation computes the exact result and rounds it once (Exact.lean). The engine computes in REAL, a parameter (R7), and its wavetable in binary64 (R220). -/

namespace Sys2Proof.Machine

open Sys2Proof.Config (RealOp)

variable {F : Format}

/-! ## Operations

The operations are irreducible: the elaborator does not unfold them while it compares states, and a
proof unfolds one by its name. Lean's kernel evaluates them all the same (`decide +kernel`). -/

/-- The datum that an encoding stands for. -/
def datum (a : REAL F) : Num := unpack F a.toNat

/-- A NaN: the exponent bits are all 1 and the fraction is not 0. -/
def isNaN (a : REAL F) : Bool := infCode F < a.toNat % signWeight F

/-- `finite(v)`: neither a NaN nor an infinity. -/
def finite (a : REAL F) : Bool := a.toNat % signWeight F < infCode F

/-- `v` if it is a NaN, else one that is. -/
def someNaN (v : REAL F) : REAL F := if isNaN v then v else encoded F false (infCode F + 2 ^ (F.fracBits - 1))

/-- The NaN that an operation gives: any NaN (I23; log 4). -/
@[irreducible] def nanResult (op : RealOp) (a b : REAL F) : REAL F :=
  someNaN (Config.nanDraw op a b)

/-- An exact result rounded to the format; `nan` is what stands for the result "NaN". -/
def rounded (nan : REAL F) : Num → REAL F
  | .nan => nan
  | .inf neg => encoded F neg (infCode F)
  | .fin neg m e => encoded F neg (roundCode F m e)

/-- The exact result of an operation, rounded to the format. -/
def roundReal (op : RealOp) (a b : REAL F) (exact : Num) : REAL F := rounded (nanResult op a b) exact

/-- `a + b` (R12). -/
@[irreducible] def fadd (a b : REAL F) : REAL F := roundReal .add a b (exactAdd (datum a) (datum b))
/-- `a - b` (R12). -/
@[irreducible] def fsub (a b : REAL F) : REAL F := roundReal .sub a b (exactAdd (datum a) (exactNeg (datum b)))
/-- `a * b` (R12). -/
@[irreducible] def fmul (a b : REAL F) : REAL F := roundReal .mul a b (exactMul (datum a) (datum b))
/-- `a / b` (R12). -/
@[irreducible] def fdiv (a b : REAL F) : REAL F := roundReal .div a b (exactDiv F (datum a) (datum b))
/-- `sqrt(a)` (R12); it is not one of R13's transcendentals, so it is rounded like `+`. -/
@[irreducible] def fsqrt (a : REAL F) : REAL F := roundReal .sqrt a a (exactSqrt F (datum a))
/-- `floor(a)` (R12). -/
@[irreducible] def ffloor (a : REAL F) : REAL F := roundReal .floor a a (exactFloor (datum a))
/-- `abs(a)` (R12). -/
@[irreducible] def fabs (a : REAL F) : REAL F := if isNaN a then nanResult .abs a a else encoded F false (a.toNat % signWeight F)
/-- `-a`. -/
@[irreducible] def fneg (a : REAL F) : REAL F := if isNaN a then nanResult .neg a a else a ^^^ encoded F true 0

/-! ## Comparisons and selections -/

/-- An integer that orders the REAL values that are not NaNs; both zeros have the key 0. -/
def orderKey (a : REAL F) : Int :=
  if signWeight F ≤ a.toNat then -((a.toNat % signWeight F : Nat) : Int) else (a.toNat % signWeight F : Nat)

/-- `a < b`, false when one is a NaN. -/
def flt (a b : REAL F) : Bool := !isNaN a && !isNaN b && decide (orderKey a < orderKey b)
/-- `a <= b`, false when one is a NaN. -/
def fle (a b : REAL F) : Bool := !isNaN a && !isNaN b && decide (orderKey a ≤ orderKey b)

/-- `min(a, b)` returns an operand, and `a` when the two compare equal (R12). When they do not compare,
which operand is open (log 5). -/
@[irreducible] def fmin (a b : REAL F) : REAL F :=
  if isNaN a || isNaN b then (if Config.minTakesFirst a b then a else b)
  else if orderKey b < orderKey a then b else a

/-- `max(a, b)` returns an operand, and `a` when the two compare equal (R12); else as `fmin`. -/
@[irreducible] def fmax (a b : REAL F) : REAL F :=
  if isNaN a || isNaN b then (if Config.maxTakesFirst a b then a else b)
  else if orderKey a < orderKey b then b else a

/-- `clamp(v, lo, hi) = min(max(v, lo), hi)` (R12). -/
def fclamp (v lo hi : REAL F) : REAL F := fmin (fmax v lo) hi

/-! ## Conversions -/

/-- `floor_u32(r)`: the floor of a non-negative r, saturating at 2^32 - 1 (R12). Other operands are
open (log 6). -/
@[irreducible] def floorU32 (r : REAL F) : U32 :=
  match datum r with
  | .nan => Config.floorU32Open r
  | .inf neg => if neg then Config.floorU32Open r else 0xFFFFFFFF#32
  | .fin neg m e =>
    if neg && m != 0 then Config.floorU32Open r
    else
      let n := if 0 ≤ e then m * 2 ^ e.toNat else m / 2 ^ (-e).toNat
      BitVec.ofNat 32 (min n 0xFFFFFFFF)

/-- `roundHalfAway(p)`: the nearest integer, halves away from zero (R215). -/
@[irreducible] def froundHalfAway (p : REAL F) : REAL F :=
  roundReal .floor p p <|
    match datum p with
    | .nan => .nan
    | .inf a => .inf a
    | .fin a m e =>
      if 0 ≤ e then .fin a m e
      else
        let d := 2 ^ (-e).toNat
        .fin a ((2 * m + d) / (2 * d)) 0

/-- The value of one format in another, rounded once to nearest with ties to even; a value of the format itself stays
as it stands. R220 rounds the wavetable so, from binary64 to REAL. An operand's binary32 value becomes a register's REAL
value so, and a sample's REAL value the binary32 value that R84 stores: with the decided REAL both are the identity
(R112), and for another the conversion is the model's choice (DESIGN CHOICE, log 27). -/
@[irreducible] def convert {G : Format} (a : REAL G) : REAL F :=
  if h : G = F then h ▸ a else rounded (someNaN (Config.nanConvert a)) (datum a)

/-! ## Constants -/

/-- +0.0, whose encoding is 0 in every format. -/
def fzero : REAL F := 0#F.width
def fone : REAL F := fnat 1
def ftwo : REAL F := fnat 2
def fhalf : REAL F := fratio 1 2
/-- π, "the REAL value nearest pi" (R12): of the decimal of 60 places, which gives it for every format of at most 160
fraction bits. -/
def fpi : REAL F := fratio 3141592653589793238462643383279502884197169399375105820974945 (10 ^ 60)
/-- SR as a REAL. -/
def fsr (c : EngineConfig F) : REAL F := fnat c.sampleRate
/-- TABLE_LEN as a REAL. -/
def ftableLen (c : EngineConfig F) : REAL F := fnat c.tableLen

end Sys2Proof.Machine
end

