-- ==== Sys2Proof/Machine/Parts.lean ====
section
/-! DEFINITION. The parts that State is made of (10_state.md R24, R36 to R61): plain data, each with the rule that names it. -/

namespace Sys2Proof.Machine

/-- A memory as the list of its cells: offset and content, offsets strictly rising, no content 0. A place
that is not listed reads as 0, its content at construction (R56, R58 to R60). `Memory 8` is a list of
`Host.Cell`. -/
abbrev Memory (w : Nat) := List (Nat × BitVec w)

/-- The canonical form of a memory. -/
abbrev Memory.wf {w : Nat} (m : Memory w) : Prop :=
  m.Pairwise (fun a b => a.1 < b.1) ∧ ∀ c ∈ m, c.2 ≠ 0

/-- The voice parameter registers (R24), `tempo` among them. -/
structure Params (F : Format) where
  cutoff : REAL F
  resonance : REAL F
  envMod : REAL F
  decay : REAL F
  accentDepth : REAL F
  waveform : Fin Config.numWaves
  distShape : REAL F
  distAmount : REAL F
  delaySend : REAL F
  delayFeedback : REAL F
  delayLength : Nat
  tempo : REAL F
deriving DecidableEq, Repr

/-- One step of a pattern (R41). -/
structure Step where
  pitch : U8
  enabled : Bool
  accent : Bool
  slide : Bool
  octaveDown : Bool
  octaveUp : Bool
deriving DecidableEq, Repr

/-- One pattern (R41). The length is 1 to MAX_STEPS; that it is not 0 stands in `State.Legal`. -/
structure Pattern where
  length : Fin (Config.maxSteps + 1)
  steps : Vector Step Config.maxSteps
deriving DecidableEq, Repr

/-- A step with pitch 0 and every flag false (R41). -/
def emptyStep : Step := ⟨0#8, false, false, false, false, false⟩

/-- A pattern of length 16 with every step empty (R41). -/
def emptyPattern : Pattern := ⟨⟨16, by decide⟩, Vector.replicate Config.maxSteps emptyStep⟩

/-- The sequencer's state (R36 to R41). `patterns` is the bank of NUM_PATTERNS patterns; that it has as many, and
that both pattern indices name one, stands in `State.Legal`. -/
structure Sequencer where
  running : Bool
  counter : U32
  position : Fin Config.maxSteps
  stepLength : U32
  currentPattern : Nat
  nextPattern : Nat
  patterns : List Pattern
deriving DecidableEq, Repr

/-- The oscillator's state (R43 to R46). -/
structure Oscillator (F : Format) where
  phase : REAL F
  inc : REAL F
  segNote : Fin Config.numNotes
  segWave : Fin Config.numWaves
  glideLeft : Nat
  glideDelta : REAL F
  glideTarget : REAL F
deriving DecidableEq, Repr

/-- A one-pole filter instance (R48). -/
structure OnePole (F : Format) where
  b0 : REAL F
  b1 : REAL F
  a1 : REAL F
  x1 : REAL F
  y1 : REAL F
deriving DecidableEq, Repr

/-- A biquad filter instance (R49). -/
structure Biquad (F : Format) where
  b0 : REAL F
  b1 : REAL F
  b2 : REAL F
  a1 : REAL F
  a2 : REAL F
  x1 : REAL F
  x2 : REAL F
  y1 : REAL F
  y2 : REAL F
  bypass : Bool
deriving DecidableEq, Repr

/-- The ladder filter instance (R50): `y0` is the summing node, `y1` to `y4` the integrators (C5). -/
structure Ladder (F : Format) where
  b0 : REAL F
  g : REAL F
  k : REAL F
  y0 : REAL F
  y1 : REAL F
  y2 : REAL F
  y3 : REAL F
  y4 : REAL F
  fbhp : OnePole F
deriving DecidableEq, Repr

/-- The log kinds (R432). -/
inductive LogKind where
  | badPatternIndex
  | badPatternLength
  | badWaveform
  | notifyOverflow
deriving DecidableEq, Repr

/-- A record of the logging channel (R61): its kind and the `info` of R432. -/
structure LogRecord where
  kind : LogKind
  info : U32
deriving DecidableEq, Repr

/-- A move of the host (R99): a call of `initialize()`, a byte written at an offset of CMD, a call of `process`. -/
inductive HostCall where
  | callInitialize
  | writeCmd (offset : Nat) (byte : U8)
  | process (validLength : U32)
deriving DecidableEq, Repr

/-- Where the engine is: being constructed (R434), between calls, in the decode phase with its read position
`pos` (R21, the program counter, which "exists only during the decode phase"), or at sample `i` of the block (R140).
DESIGN CHOICE (log 1): one `process` call is several steps, none visible to the host. -/
inductive Stage where
  /-- The engine is about to be constructed. Whether the environment has the resources for it is plain data that
  nothing constrains (R434; log 14). -/
  | constructing (resources : Bool)
  | idle
  | decode (pos : Nat)
  | render (i : Nat)
deriving DecidableEq, Repr

end Sys2Proof.Machine
end

