-- ==== Sys2Proof/Machine/Envelope.lean ====
section
/-! DEFINITION. The voice's pure functions: envelope multipliers, target pitch, swept cutoff and raw gain (46_voice.md R391 to R393, R401, R403). -/

namespace Sys2Proof.Machine

variable {F : Format}

/-- `decayMul(d) = exp(−1000 / (d * SR))` (R392). -/
def decayMul (c : EngineConfig F) (d : REAL F) : REAL F := Config.exp (fdiv (fneg (fnat 1000)) (fmul d (fsr c)))

/-- The decay time of a step: `min(decay, ACCENT_DECAY_MS)` under an accent, else `decay` (R391). -/
def stepDecay (c : EngineConfig F) (accent : Bool) (decay : REAL F) : REAL F :=
  if accent then fmin decay c.accentDecayMs else decay

/-- `targetPitch(st)`: −12 for octave-down, +12 for octave-up, as REAL values (R393). -/
def targetPitch (st : Step) : REAL F :=
  let p := fnat st.pitch.toNat
  let p := if st.octaveDown then fsub p (fnat 12) else p
  if st.octaveUp then fadd p (fnat 12) else p

/-- The exponent of the sweep, in octaves (R401). -/
def sweepOctaves (c : EngineConfig F) (p : Params F) (accentActive : Bool) (filtEnv : REAL F) : REAL F :=
  let e := fmul (fmul c.envModOct p.envMod) filtEnv
  if accentActive then fadd e (fmul (fmul c.accentModOct p.accentDepth) filtEnv) else e

/-- `sweptCutoffOf()`: `min(cutoff * 2^e, F_MAX)` (R401). -/
def sweptCutoffOf (c : EngineConfig F) (p : Params F) (accentActive : Bool) (filtEnv : REAL F) : REAL F :=
  fmin (fmul p.cutoff (Config.pow ftwo (sweepOctaves c p accentActive filtEnv))) c.fMax

/-- `gainRaw()` (R403). -/
def gainRaw (p : Params F) (accentActive : Bool) (ampEnv : REAL F) : REAL F :=
  if accentActive then fmul ampEnv (fadd fone p.accentDepth) else ampEnv

end Sys2Proof.Machine
end

