-- ==== Sys2Proof/Machine/Moorer.lean ====
section
/-! DEFINITION. The Moorer designs (43_filter_primitives.md R272 to R274): the branch rule and the near-zero guard, which are the spec's, around the formulas, which are the parameter functions of Config.lean. Then the candidate formulas of 93_implementation_defined.md I12, "unverified against the reference", which no design uses (log 17). No output of the CORE depends on a Moorer design (R272). -/

namespace Sys2Proof.Machine

open Sys2Proof.Config (BiquadRaw MoorerDesign MoorerInput MoorerRoots GuardedDivision)

variable {F : Format}

/-- The branch rule: "pick the smaller positive root strictly between 0 and the principal value, else
fall back to the principal value" (R273). -/
def moorerBranch (r : MoorerRoots F) : REAL F :=
  match r.other with
  | none => r.principal
  | some thetaS => if flt fzero thetaS && flt thetaS r.principal then thetaS else r.principal

/-- The near-zero guard: where `|d| <= MOORER_EPS` the fallback stands in for the division (R274). -/
def moorerGuard (c : EngineConfig F) (q : GuardedDivision F) : REAL F :=
  if fle (fabs q.denominator) c.moorerEps then q.fallback else q.value

/-- The band edge of a design: the presence converts its bandwidth to an angle (R273), a shelf does not. -/
def moorerBandEdge (d : MoorerDesign) (x : MoorerInput F) : Option (REAL F) :=
  match d with
  | .presence => some (moorerBranch (Config.moorerRoots x))
  | .lowShelf | .highShelf => none

/-- What the first `n` divisions of a design's formulas give, each guarded (R274). -/
def guardedDivisions (c : EngineConfig F) (next : List (REAL F) → GuardedDivision F) : Nat → List (REAL F)
  | 0 => []
  | n + 1 =>
    let earlier := guardedDivisions c next n
    earlier ++ [moorerGuard c (next earlier)]

/-- What all the divisions of a design give. -/
def moorerQuotients (c : EngineConfig F) (d : MoorerDesign) (x : MoorerInput F) : List (REAL F) :=
  guardedDivisions c (Config.moorerDivision d x (moorerBandEdge d x)) (Config.moorerDivisions d)

/-- MOORER_PRESENCE, MOORER_LOWSHELF and MOORER_HIGHSHELF: the raw values, a function of (fc, gainDb, bw) (R272). -/
def moorerDesign (c : EngineConfig F) (d : MoorerDesign) (fc gainDb bw : REAL F) : BiquadRaw F :=
  let x : MoorerInput F := ⟨c.sampleRate, fc, gainDb, bw⟩
  Config.moorerRaw d x (moorerBandEdge d x) (moorerQuotients c d x)

/-- Candidate (I12): the band-edge solve, in cycles per sample. -/
def candidateBandAngle (a bw : REAL F) : REAL F :=
  let T := Config.tan (fmul (fmul ftwo fpi) bw)
  let a2 := fmul a a
  let a4 := fmul a2 a2
  let d := fmul (fmul ftwo a2) T
  let sn := fmul (fadd fone a4) T
  let cs := fsub fone a4
  let mag := fsqrt (fadd (fmul sn sn) (fmul cs cs))
  let asnd := Config.asin (fdiv d mag)
  let delta := Config.atan2 sn cs
  let thetaP := fmul fhalf (fsub (fsub fpi asnd) delta)
  let thetaS := fmul fhalf (fsub asnd delta)
  fdiv (moorerBranch ⟨thetaP, some thetaS⟩) (fmul ftwo fpi)

/-- Candidate (I12): `a = tan(π·(cf − 0.25))`. -/
def candidateWarp (cf : REAL F) : REAL F := Config.tan (fmul fpi (fsub cf (fratio 1 4)))

/-- Candidate (I12): `A = 10^(boost/20)`. -/
def candidateAmp (boost : REAL F) : REAL F := Config.pow (fnat 10) (fdiv boost (fnat 20))

/-- Candidate (I12): `F`, the amplitude at the band edges. -/
def candidateEdge (boost : REAL F) : REAL F :=
  let A := candidateAmp boost
  if flt (fneg (fnat 6)) boost && flt boost (fnat 6) then fsqrt A
  else if flt fone A then fdiv A (fsqrt ftwo) else fmul A (fsqrt ftwo)

/-- Candidate for MOORER_PRESENCE (I12). -/
def candidatePresence (c : EngineConfig F) (cf boost bw : REAL F) : BiquadRaw F :=
  let a := candidateWarp cf
  let asq := fmul a a
  let A := candidateAmp boost
  let F := candidateEdge boost
  let C := fdiv fone (Config.tan (fmul (fmul ftwo fpi) (candidateBandAngle a bw)))
  let F2 := fmul F F
  let tmp := fsub (fmul A A) F2
  let alphad := moorerGuard c ⟨tmp, C, fsqrt (fdiv (fmul (fmul C C) (fsub F2 fone)) tmp)⟩
  let alphan := fmul A alphad
  let side := fadd fone asq
  let gap := fsub fone asq
  let mid := fmul (fnat 4) a
  ⟨fadd side (fmul alphan gap), mid, fsub side (fmul alphan gap),
    fadd side (fmul alphad gap), mid, fsub side (fmul alphad gap)⟩

/-- Candidate (I12): the section that a `γ` gives, mapped by `a`. -/
def candidateShelfSection (a gamma : REAL F) : REAL F × REAL F × REAL F :=
  let g2 := fmul gamma gamma
  let root := fmul (fsqrt ftwo) gamma
  let t0 := fadd (fadd fone g2) root
  let t1 := fmul (fneg ftwo) (fsub fone g2)
  let t2 := fsub (fadd fone g2) root
  let a2 := fmul a a
  (fadd (fadd t0 (fmul a t1)) (fmul a2 t2),
    fadd (fmul (fmul ftwo a) (fadd t0 t2)) (fmul (fadd fone a2) t1),
    fadd (fadd (fmul a2 t0) (fmul a t1)) t2)

/-- Candidate for MOORER_LOWSHELF (I12), "recalled with less certainty than `presence`". -/
def candidateLowShelf (c : EngineConfig F) (cf boost : REAL F) : BiquadRaw F :=
  let a := candidateWarp cf
  let A := candidateAmp boost
  let F2 := fmul (candidateEdge boost) (candidateEdge boost)
  let d := fsub (fmul A A) F2
  let gammad := moorerGuard c ⟨d, fone, Config.pow (fdiv (fsub F2 fone) d) (fratio 1 4)⟩
  let gamman := fmul (fsqrt A) gammad
  let n := candidateShelfSection a gamman
  let m := candidateShelfSection a gammad
  ⟨n.1, n.2.1, n.2.2, m.1, m.2.1, m.2.2⟩

end Sys2Proof.Machine
end

