-- ==== Sys2Proof/Machine/Filters.lean ====
section
/-! DEFINITION. The filter bank (43_filter_primitives.md): every design and both renders. The chain uses four designs (46_voice.md R400, R403); no instruction selects any other. -/

namespace Sys2Proof.Machine

open Sys2Proof.Config (BiquadRaw)

variable {F : Format}

/-! ## Common conventions (R254, R256, R257) -/

/-- `fc = clamp(f, 1.0e-3, 0.499 * SR)` (R257). -/
def designFreq (c : EngineConfig F) (f : REAL F) : REAL F :=
  fclamp f (fratio 1 1000) (fmul (fratio 499 1000) (fsr c))

/-! ## One-pole section (R250 to R252) -/

/-- The direct-form render; the stored output carries DENORMAL_BIAS, the returned one does not (R250, R256). -/
def onePoleRender (c : EngineConfig F) (sec : OnePole F) (x : REAL F) : OnePole F × REAL F :=
  let y := fadd (fadd (fmul sec.b0 x) (fmul sec.b1 sec.x1)) (fmul sec.a1 sec.y1)
  ({ sec with x1 := x, y1 := fadd y c.denormalBias }, y)

/-- `p = exp(-2 * π * fc / SR)` (R251, R252). -/
def onePolePole (c : EngineConfig F) (f : REAL F) : REAL F :=
  Config.exp (fdiv (fmul (fmul (fneg ftwo) fpi) (designFreq c f)) (fsr c))

/-- The high-pass design (R251); a non-finite frequency keeps the coefficients (R257). -/
def designOnePoleHP (c : EngineConfig F) (sec : OnePole F) (f : REAL F) : OnePole F :=
  if finite f then
    let p := onePolePole c f
    { sec with
      b0 := fmul fhalf (fadd fone p)
      b1 := fmul (fneg fhalf) (fadd fone p)
      a1 := p }
  else sec

/-- The all-pass design (R252); a non-finite frequency keeps the coefficients (R257). -/
def designOnePoleAP (c : EngineConfig F) (sec : OnePole F) (f : REAL F) : OnePole F :=
  if finite f then
    let p := onePolePole c f
    { sec with b0 := fneg p, b1 := fone, a1 := p }
  else sec

/-- A one-pole instance before its design: everything 0 (R48, R461). -/
def onePoleZero : OnePole F := ⟨fzero, fzero, fzero, fzero, fzero⟩

/-! ## Biquad section (R255, R258 to R271) -/

/-- Direct Form I; the feedback coefficients are subtracted, the stored output carries the bias, and a
bypass instance returns its input and writes nothing (R255, R256, R271). -/
def biquadRender (c : EngineConfig F) (sec : Biquad F) (x : REAL F) : Biquad F × REAL F :=
  if sec.bypass then (sec, x)
  else
    let y :=
      fsub (fsub (fadd (fadd (fmul sec.b0 x) (fmul sec.b1 sec.x1)) (fmul sec.b2 sec.x2)) (fmul sec.a1 sec.y1))
        (fmul sec.a2 sec.y2)
    ({ sec with x2 := sec.x1, x1 := x, y2 := sec.y1, y1 := fadd y c.denormalBias }, y)

/-- What fixes a design's width: a Q, or a bandwidth in octaves (R258). -/
inductive FilterWidth (F : Format) where
  | q (Q : REAL F)
  | octaves (bw : REAL F)
deriving DecidableEq, Repr

/-- The biquad designs (R275). Each carries what it is given beside its frequency. -/
inductive BiquadDesign (F : Format) where
  | lowPass12 (w : FilterWidth F)
  | highPass12 (w : FilterWidth F)
  | lowPass6
  | highPass6
  | bandPassSkirt (w : FilterWidth F)
  | bandPassPeak (w : FilterWidth F)
  | notch (w : FilterWidth F)
  | allPass (w : FilterWidth F)
  | peaking (w : FilterWidth F) (gainDb : REAL F)
  | lowShelf (w : FilterWidth F) (gainDb : REAL F)
  | highShelf (w : FilterWidth F) (gainDb : REAL F)
  | moorerPresence (gainDb bw : REAL F)
  | moorerLowShelf (gainDb bw : REAL F)
  | moorerHighShelf (gainDb bw : REAL F)
deriving DecidableEq, Repr

/-- `w0 = 2 * π * fc / SR` (R258). -/
def angularFreq (c : EngineConfig F) (fc : REAL F) : REAL F := fdiv (fmul (fmul ftwo fpi) fc) (fsr c)

/-- `alpha`, from a Q or from a bandwidth in octaves (R258). -/
def alphaOf (w : FilterWidth F) (w0 sn : REAL F) : REAL F :=
  match w with
  | .q Q => fdiv sn (fmul ftwo Q)
  | .octaves bw =>
    fmul sn (Config.sinh (fdiv (fmul (fmul (fdiv (Config.log ftwo) ftwo) bw) w0) sn))

/-- `A = 10^(gainDb / 40)` (R258). -/
def shelfAmp (gainDb : REAL F) : REAL F := Config.pow (fnat 10) (fdiv gainDb (fnat 40))

/-- The denominator that most RBJ designs share: `1 + alpha`, `-2·cs`, `1 - alpha` (R259 to R266). -/
def rbjRaw (B0 B1 B2 cs alpha : REAL F) : BiquadRaw F :=
  ⟨B0, B1, B2, fadd fone alpha, fmul (fneg ftwo) cs, fsub fone alpha⟩

/-- The low shelf's raw values (R268), with `r = 2·sqrt(A)·alpha`. -/
def lowShelfRaw (A cs r : REAL F) : BiquadRaw F :=
  let ap := fadd A fone
  let am := fsub A fone
  { B0 := fmul A (fadd (fsub ap (fmul am cs)) r)
    B1 := fmul (fmul ftwo A) (fsub am (fmul ap cs))
    B2 := fmul A (fsub (fsub ap (fmul am cs)) r)
    A0 := fadd (fadd ap (fmul am cs)) r
    A1 := fmul (fneg ftwo) (fadd am (fmul ap cs))
    A2 := fsub (fadd ap (fmul am cs)) r }

/-- The high shelf's raw values (R269), with `r = 2·sqrt(A)·alpha`. -/
def highShelfRaw (A cs r : REAL F) : BiquadRaw F :=
  let ap := fadd A fone
  let am := fsub A fone
  { B0 := fmul A (fadd (fadd ap (fmul am cs)) r)
    B1 := fmul (fmul (fneg ftwo) A) (fadd am (fmul ap cs))
    B2 := fmul A (fsub (fadd ap (fmul am cs)) r)
    A0 := fadd (fsub ap (fmul am cs)) r
    A1 := fmul ftwo (fsub am (fmul ap cs))
    A2 := fsub (fsub ap (fmul am cs)) r }

/-- The six raw values of a design at the clamped frequency `fc` (R259 to R269, R272). -/
def biquadRaw (c : EngineConfig F) (d : BiquadDesign F) (fc : REAL F) : BiquadRaw F :=
  let w0 := angularFreq c fc
  let cs := Config.cos w0
  let sn := Config.sin w0
  match d with
  | .lowPass12 w =>
    rbjRaw (fdiv (fsub fone cs) ftwo) (fsub fone cs) (fdiv (fsub fone cs) ftwo) cs (alphaOf w w0 sn)
  | .highPass12 w =>
    rbjRaw (fdiv (fadd fone cs) ftwo) (fneg (fadd fone cs)) (fdiv (fadd fone cs) ftwo) cs (alphaOf w w0 sn)
  | .lowPass6 =>
    let K := Config.tan (fdiv w0 ftwo)
    ⟨K, K, fzero, fadd fone K, fsub K fone, fzero⟩
  | .highPass6 =>
    let K := Config.tan (fdiv w0 ftwo)
    ⟨fone, fneg fone, fzero, fadd fone K, fsub K fone, fzero⟩
  | .bandPassSkirt w => rbjRaw (fdiv sn ftwo) fzero (fdiv (fneg sn) ftwo) cs (alphaOf w w0 sn)
  | .bandPassPeak w => rbjRaw (alphaOf w w0 sn) fzero (fneg (alphaOf w w0 sn)) cs (alphaOf w w0 sn)
  | .notch w => rbjRaw fone (fmul (fneg ftwo) cs) fone cs (alphaOf w w0 sn)
  | .allPass w =>
    rbjRaw (fsub fone (alphaOf w w0 sn)) (fmul (fneg ftwo) cs) (fadd fone (alphaOf w w0 sn)) cs
      (alphaOf w w0 sn)
  | .peaking w gainDb =>
    let A := shelfAmp gainDb
    let alpha := alphaOf w w0 sn
    ⟨fadd fone (fmul alpha A), fmul (fneg ftwo) cs, fsub fone (fmul alpha A),
      fadd fone (fdiv alpha A), fmul (fneg ftwo) cs, fsub fone (fdiv alpha A)⟩
  | .lowShelf w gainDb =>
    let A := shelfAmp gainDb
    lowShelfRaw A cs (fmul (fmul ftwo (fsqrt A)) (alphaOf w w0 sn))
  | .highShelf w gainDb =>
    let A := shelfAmp gainDb
    highShelfRaw A cs (fmul (fmul ftwo (fsqrt A)) (alphaOf w w0 sn))
  | .moorerPresence gainDb bw => moorerDesign c .presence fc gainDb bw
  | .moorerLowShelf gainDb bw => moorerDesign c .lowShelf fc gainDb bw
  | .moorerHighShelf gainDb bw => moorerDesign c .highShelf fc gainDb bw

/-- A biquad design: the raw values normalised by `A0`, and `bypass <- false` (R258); a non-finite
frequency keeps the coefficients (R257). It writes no delay register (R254).
DESIGN CHOICE (log 26): at a non-finite frequency `bypass` too keeps its value. R257 speaks of the coefficients
only, R258 says that a design sets `bypass` false, and the spec leaves open which of the two holds there. -/
def designBiquad (c : EngineConfig F) (sec : Biquad F) (d : BiquadDesign F) (f : REAL F) : Biquad F :=
  if finite f then
    let r := biquadRaw c d (designFreq c f)
    { sec with
      b0 := fdiv r.B0 r.A0
      b1 := fdiv r.B1 r.A0
      b2 := fdiv r.B2 r.A0
      a1 := fdiv r.A1 r.A0
      a2 := fdiv r.A2 r.A0
      bypass := false }
  else sec

/-- A biquad instance before its design: everything 0 (R49, R461). -/
def biquadZero : Biquad F :=
  ⟨fzero, fzero, fzero, fzero, fzero, fzero, fzero, fzero, fzero, false⟩

/-- A bypass variant: render is the identity (R271). -/
def bypassBiquad : Biquad F := { biquadZero with bypass := true }

end Sys2Proof.Machine
end

