-- ==== Sys2Proof/Machine/LadderFilter.lean ====
section
/-! DEFINITION. The ladder filter (44_ladder.md R300 to R307): its fits at the spec's defaults (I8 to I11, I22; log 18), its design and its render. -/

namespace Sys2Proof.Machine

variable {F : Format}

/-- `fx = fc / (SR * sqrt(2))` (R301). -/
def ladderFx (c : EngineConfig F) (fc : REAL F) : REAL F := fdiv fc (fmul (fsr c) (fsqrt ftwo))

/-- LADDER_B0_FIT, the spec's default (R302, I8):
`(0.00045522346 + 6.1922189 * fx) / (1 + 12.358354 * fx + 4.4156345 * fx * fx)`. -/
def ladderB0Fit (fx : REAL F) : REAL F :=
  fdiv (fadd (fratio 45522346 (10 ^ 11)) (fmul (fratio 61922189 (10 ^ 7)) fx))
    (fadd (fadd fone (fmul (fratio 12358354 (10 ^ 6)) fx)) (fmul (fmul (fratio 44156345 (10 ^ 7)) fx) fx))

/-- LADDER_K_FIT, the spec's default (R302, I9): `fx*(fx*(fx*(fx*(fx*(fx + 7198.6997) - 5837.7917)
- 476.47308) + 614.95611) + 213.87126) + 16.998792`. -/
def ladderKFit (fx : REAL F) : REAL F :=
  let h5 := fmul fx (fadd fx (fratio 71986997 (10 ^ 4)))
  let h4 := fmul fx (fsub h5 (fratio 58377917 (10 ^ 4)))
  let h3 := fmul fx (fsub h4 (fratio 47647308 (10 ^ 5)))
  let h2 := fmul fx (fadd h3 (fratio 61495611 (10 ^ 5)))
  let h1 := fmul fx (fadd h2 (fratio 21387126 (10 ^ 5)))
  fadd h1 (fratio 16998792 (10 ^ 6))

/-- RESONANCE_SKEW, the spec's default (R303, I10): `(1 − exp(−3·x)) / (1 − exp(−3))`. -/
def resonanceSkew (x : REAL F) : REAL F :=
  fdiv (fsub fone (Config.exp (fmul (fneg (fnat 3)) x))) (fsub fone (Config.exp (fneg (fnat 3))))

/-- The makeup gain `((kRaw / 17 - 1) * r + 1) * (1 + r)`, the spec's default (R303, I10). -/
def ladderMakeup (kRaw r : REAL F) : REAL F :=
  fmul (fadd (fmul (fsub (fdiv kRaw (fnat 17)) fone) r) fone) (fadd fone r)

/-- LADDER_SHAPE, the spec's default: the identity (R305, I22). -/
def ladderShape (x : REAL F) : REAL F := x

/-- The ladder's coefficients from a cutoff and a resonance (R303). It writes `b0`, `g` and `k` only (R304). -/
def ladderDesign (c : EngineConfig F) (ld : Ladder F) (fc res : REAL F) : Ladder F :=
  let fx := ladderFx c fc
  let kRaw := ladderKFit fx
  let r := resonanceSkew res
  { ld with b0 := ladderB0Fit fx, g := ladderMakeup kRaw r, k := fmul kRaw r }

/-- The ladder's render (R305): each stage reads the new value of the stage before it and the old value
of the stage after it; the stored stages carry the bias. -/
def ladderRender (c : EngineConfig F) (ld : Ladder F) (x : REAL F) : Ladder F × REAL F :=
  let fb := onePoleRender c ld.fbhp (fmul ld.k ld.y4)
  let y0 := ladderShape (fsub x fb.2)
  let n1 := fadd ld.y1 (fmul (fmul ftwo ld.b0) (fadd (fsub y0 ld.y1) ld.y2))
  let n2 := fadd ld.y2 (fmul ld.b0 (fadd (fsub n1 (fmul ftwo ld.y2)) ld.y3))
  let n3 := fadd ld.y3 (fmul ld.b0 (fadd (fsub n2 (fmul ftwo ld.y3)) ld.y4))
  let n4 := fadd ld.y4 (fmul ld.b0 (fsub n3 (fmul ftwo ld.y4)))
  ({ ld with
      y0 := y0
      y1 := fadd n1 c.denormalBias
      y2 := fadd n2 c.denormalBias
      y3 := fadd n3 c.denormalBias
      y4 := fadd n4 c.denormalBias
      fbhp := fb.1 },
    fmul (fmul ftwo ld.g) n4)

/-- The ladder at construction: `ladderDesign(500.0, 0.5)`, stages 0, and `fbhp` designed at FB_HP_HZ (R307). -/
def ladderAtConstruction (c : EngineConfig F) : Ladder F :=
  ladderDesign c
    ⟨fzero, fzero, fzero, fzero, fzero, fzero, fzero, fzero, designOnePoleHP c onePoleZero c.fbHpHz⟩
    (fnat 500) fhalf

end Sys2Proof.Machine
end

