-- ==== Sys2Proof/Machine/Sequence.lean ====
section
/-! DEFINITION. The sequencer's state machine (41_sequencer.md R170 to R177). -/

namespace Sys2Proof.Machine

variable {F : Format}

/-- `stepLengthOf(t) = max(1, floor_u32(SR * 60 / t / 4))`, left to right in REAL (R171). -/
def stepLengthOf (c : EngineConfig F) (t : REAL F) : U32 :=
  let n := floorU32 (fdiv (fdiv (fmul (fsr c) (fnat 60)) t) (fnat 4))
  if n = 0#32 then 1#32 else n

/-- The pattern at an index of the bank (R41). The one that stands in for an index outside it is read by no legal
state (log 20). -/
def patternAt (q : Sequencer) (p : Nat) : Pattern := q.patterns.getD p emptyPattern

/-- The pattern that plays. -/
def activePattern (q : Sequencer) : Pattern := patternAt q q.currentPattern

/-- The Step at the sequencer's position of the active pattern (R172). -/
def activeStep (q : Sequencer) : Step := (activePattern q).steps[q.position]

/-- The move to the next step, or to step 0 of the next pattern when the position reaches the active
pattern's length (R170, R174). -/
def seqMove (q : Sequencer) : Sequencer :=
  if h : q.position.val + 1 < (activePattern q).length.val then
    { q with position := ⟨q.position.val + 1, by
        have := (activePattern q).length.isLt
        simp only [Config.maxSteps] at *
        omega⟩ }
  else { q with position := ⟨0, by decide⟩, currentPattern := q.nextPattern }

/-- A step boundary (R170): the counter restarts, the next step's length is computed (R175), and the
position moves. -/
def seqBoundary (c : EngineConfig F) (tempo : REAL F) (q : Sequencer) : Sequencer :=
  seqMove { q with counter := 0#32, stepLength := stepLengthOf c tempo }

/-- What one sample emits: the new position and the Step there, or nothing (R42). -/
abbrev StepEvent := Option (Fin Config.maxSteps × Step)

/-- `seqAdvance()`, once a sample (R170). The counter's sum is exact (R12; log 19). -/
def seqAdvance (c : EngineConfig F) (tempo : REAL F) (q : Sequencer) : Sequencer × StepEvent :=
  if q.running then
    if q.counter.toNat + 1 < q.stepLength.toNat then ({ q with counter := q.counter + 1#32 }, none)
    else
      let q' := seqBoundary c tempo q
      (q', some (q'.position, activeStep q'))
  else (q, none)

/-- `n` advances at a tempo, with the events they emit, in order (R177). -/
def seqRun (c : EngineConfig F) (tempo : REAL F) : Nat → Sequencer → Sequencer × List (Fin Config.maxSteps × Step)
  | 0, q => (q, [])
  | n + 1, q =>
    let a := seqAdvance c tempo q
    let r := seqRun c tempo n a.1
    (r.1, a.2.toList ++ r.2)

/-- The start of a stopped sequencer (R180): the next advance completes a step and emits step 0. -/
def seqStart (c : EngineConfig F) (tempo : REAL F) (q : Sequencer) : Sequencer :=
  { q with
    running := true
    stepLength := stepLengthOf c tempo
    counter := stepLengthOf c tempo - 1#32
    position := ⟨(activePattern q).length.val - 1, by
      have := (activePattern q).length.isLt
      simp only [Config.maxSteps] at *
      omega⟩ }

/-- Replaces one step slot (R182). -/
def setStepSlot (p : Nat) (i : Fin Config.maxSteps) (st : Step) (q : Sequencer) : Sequencer :=
  { q with patterns := q.patterns.set p { patternAt q p with steps := (patternAt q p).steps.set i st } }

/-- Sets one pattern's length (R183). -/
def setLength (p : Nat) (n : Fin (Config.maxSteps + 1)) (q : Sequencer) : Sequencer :=
  { q with patterns := q.patterns.set p { patternAt q p with length := n } }

end Sys2Proof.Machine
end

