-- ==== Sys2Proof/Machine/State.lean ====
section
/-! DEFINITION. The machine's state (10_state.md), its faults and refusals, and the state at construction (70_reset_and_hazards.md R461). -/

namespace Sys2Proof.Machine

variable {F : Format}

/-- The state: all that 10_state.md names, as plain data. `config`, `stage`, `host` and `returned` are the model's
own (logs 7, 1, 2 and 13). -/
structure State (F : Format := binary32) where
  /-- The implementation parameters of this engine, which the step takes as an argument (R7, R63). No step changes
  them (R8). -/
  config : EngineConfig F
  /-- Where inside a call the engine is; holds `pos` in the decode phase (R21). -/
  stage : Stage
  /-- The valid-length marker of CMD (R22). -/
  cursor : Nat
  /-- What the last `process` call returned (R146). -/
  returned : Option U32
  /-- The host's calls that are still to come, the next one first (R99). -/
  host : List HostCall
  /-- The command buffer (R58). -/
  cmd : Memory 8
  /-- The audio output buffers, byte by byte (R59, R84). -/
  outL : Memory 8
  outR : Memory 8
  /-- The outgoing notification stream and its length (R60). -/
  notify : Memory 8
  notifyLen : Nat
  /-- The logging channel, the oldest record first (R61). -/
  log : List LogRecord
  /-- The voice parameter registers (R24). -/
  params : Params F
  /-- The sequencer (R36 to R41). -/
  seq : Sequencer
  /-- The oscillator (R43 to R46). -/
  osc : Oscillator F
  /-- The filters of the signal chain (R48, R49, R50). -/
  hp1 : OnePole F
  ap : OnePole F
  hp2 : OnePole F
  notch : Biquad F
  declick : Biquad F
  ladder : Ladder F
  /-- The last cutoff handed to the ladder (R51). -/
  sweptCutoff : REAL F
  /-- The envelopes and their multipliers (R52, R53). -/
  ampEnv : REAL F
  filtEnv : REAL F
  ampMul : REAL F
  filtMul : REAL F
  /-- Whether the most recent enabled step had its accent flag set (R54). -/
  accentActive : Bool
  /-- The voice's sample counter (R55). -/
  sampleCount : U64
  /-- The delay RAM and its write position (R56, R57). -/
  delayBuf : Memory F.width
  delayPos : Nat
deriving DecidableEq, Repr

/-- Why the machine stops. "The hardware raises no exceptions" (R431): an engine that exists raises none of these. -/
inductive Fault where
  /-- "initialization-time resource exhaustion ... is a fatal condition" (R434, I1). Raised by a step that
  constructs the engine without the resources for it: it answers no state, since "no engine exists" then. Safe: the
  machine stops where the hardware does. -/
  | constructionFailed
deriving DecidableEq, Repr

/-- Why an instruction has no meaning here. -/
inductive Refusal where
  /-- The instruction has no meaning yet. Raised only by an arm of `exec` that rejects its instruction
  by name; safe. -/
  | notModelled (mnemonic : String)
deriving DecidableEq, Repr

/-- The voice parameter registers at construction (R24, R461). -/
def Params.construct (c : EngineConfig F) : Params F where
  cutoff := fnat 500
  resonance := fhalf
  envMod := fhalf
  decay := fnat 300
  accentDepth := fhalf
  waveform := ⟨0, by decide⟩
  distShape := fzero
  distAmount := fzero
  delaySend := fzero
  delayFeedback := fzero
  delayLength := c.sampleRate / 4
  tempo := fnat 120

/-- The sequencer at construction (R36 to R41, R461). -/
def Sequencer.construct (c : EngineConfig F) : Sequencer where
  running := false
  counter := 0#32
  position := ⟨0, by decide⟩
  stepLength := stepLengthOf c (fnat 120)
  currentPattern := 0
  nextPattern := 0
  patterns := List.replicate c.numPatterns emptyPattern

/-- The oscillator at construction (R43 to R46, R461). -/
def Oscillator.construct : Oscillator F where
  phase := fzero
  inc := fzero
  segNote := ⟨0, by decide⟩
  segWave := ⟨0, by decide⟩
  glideLeft := 0
  glideDelta := fzero
  glideTarget := fzero

/-- The state that construction builds for an engine of the given parameters (R461). The engine is idle and the
host has called nothing yet. -/
def State.construct (c : EngineConfig F) : State F where
  config := c
  stage := .idle
  cursor := 0
  returned := none
  host := []
  cmd := []
  outL := []
  outR := []
  notify := []
  notifyLen := 0
  log := []
  params := Params.construct c
  seq := Sequencer.construct c
  osc := Oscillator.construct
  hp1 := designOnePoleHP c onePoleZero c.hp1Hz
  ap := designOnePoleAP c onePoleZero c.apHz
  hp2 := designOnePoleHP c onePoleZero c.hp2Hz
  notch := designBiquad c biquadZero (.notch (.octaves c.notchBw)) c.notchHz
  declick := designBiquad c biquadZero (.lowPass12 (.q c.declickQ)) c.declickHz
  ladder := ladderAtConstruction c
  sweptCutoff := fnat 500
  ampEnv := fzero
  filtEnv := fzero
  ampMul := decayMul c (fnat 300)
  filtMul := decayMul c (fnat 300)
  accentActive := false
  sampleCount := 0#64
  delayBuf := []
  delayPos := 0

/-- The machine after reset: the engine that construction has built at the values of R7's decision column. -/
def State.reset : State := State.construct decidedConfig

end Sys2Proof.Machine
end

