-- ==== Sys2Proof/Machine/Ops.lean ====
section
/-! DEFINITION. The named operations over memory and state: reads and writes of a region, the shared error operation `log(kind, info); skip` (00_scope.md R11, 60_exceptions.md R432, R433), and the writes of groups of registers. There is no exception to take and none to return from (R431, R437, R438). -/

namespace Sys2Proof.Machine

variable {F : Format}

/-! ## Memory (R10, R56, R58 to R60) -/

/-- The content at an offset; a place that is not listed reads as 0. -/
def memRead {w : Nat} : Memory w → Nat → BitVec w
  | [], _ => 0
  | c :: m, a => if c.1 = a then c.2 else memRead m a

/-- Writes the content at an offset and keeps the canonical form: writing 0 leaves no cell. -/
def memWrite {w : Nat} (a : Nat) (v : BitVec w) : Memory w → Memory w
  | [] => if v = 0 then [] else [(a, v)]
  | c :: m =>
    if c.1 < a then c :: memWrite a v m
    else
      let rest := if c.1 = a then m else c :: m
      if v = 0 then rest else (a, v) :: rest

/-- `MemWrite(region, addr, n, v)` of consecutive bytes, the first at the lowest offset (R10). -/
def memWriteBytes (a : Nat) : List U8 → Memory 8 → Memory 8
  | [], m => m
  | b :: bs, m => memWriteBytes (a + 1) bs (memWrite a b m)

/-- `MemRead(region, addr, n)` as the list of its bytes (R10). -/
def memReadBytes (m : Memory 8) (a n : Nat) : List U8 :=
  (List.range n).map fun k => memRead m (a + k)

/-- Stores a binary32 sample little-endian at byte offset 4 × i (R84). -/
def writeSample (i : Nat) (x : F32) (m : Memory 8) : Memory 8 := memWriteBytes (4 * i) (bytesOf32 x) m

/-- The binary32 sample at byte offset 4 × i (R84). -/
def readSample (m : Memory 8) (i : Nat) : F32 :=
  le32 (memRead m (4 * i)) (memRead m (4 * i + 1)) (memRead m (4 * i + 2)) (memRead m (4 * i + 3))

/-! ## The shared error operation (R11, R432, R433) -/

/-- The code of a log kind (R432). -/
def logCode : LogKind → Nat
  | .badPatternIndex => 1
  | .badPatternLength => 2
  | .badWaveform => 3
  | .notifyOverflow => 4

/-- `log(kind, info)`, then `skip`: one record is appended and nothing else changes (R433). -/
def logSkip (kind : LogKind) (info : U32) (s : State F) : State F :=
  { s with log := s.log ++ [⟨kind, info⟩] }

/-! ## Register groups -/

/-- Changes voice parameter registers only. -/
def updateParams (f : Params F → Params F) (s : State F) : State F := { s with params := f s.params }

/-- Changes the sequencer only. -/
def updateSeq (f : Sequencer → Sequencer) (s : State F) : State F := { s with seq := f s.seq }

/-- Changes the oscillator only. -/
def updateOsc (f : Oscillator F → Oscillator F) (s : State F) : State F := { s with osc := f s.osc }

/-- `sweptCutoff <- sweptCutoffOf() ; ladderDesign(sweptCutoff, resonance)` (R304, R320, R398). -/
def redesignLadder (s : State F) : State F :=
  let fc := sweptCutoffOf s.config s.params s.accentActive s.filtEnv
  { s with sweptCutoff := fc, ladder := ladderDesign s.config s.ladder fc s.params.resonance }

/-- `pushNotify(p)`: appends `StepChanged p` in its encoding, or logs that NOTIFY is full (R394). -/
def pushNotify (p : Fin Config.maxSteps) (s : State F) : State F :=
  if s.notifyLen + 5 ≤ s.config.notifyCap then
    { s with
      notify := memWriteBytes s.notifyLen (encode (.stepChanged (BitVec.ofNat 32 p.val))) s.notify
      notifyLen := s.notifyLen + 5 }
  else logSkip .notifyOverflow (BitVec.ofNat 32 p.val) s

end Sys2Proof.Machine
end

