-- ==== Sys2Proof/Machine/DecoderFamily.lean ====
section
/-! DEFINITION. The decoder family: Nop and StepChanged as consumed (40_decoder.md R148, R149). -/

namespace Sys2Proof.Machine

variable {F : Format}

/-- `Nop`: no state change (R148). -/
def execNop (s : State F) : Host.Outcome (State F) Fault Refusal := .next s

/-- `StepChanged u` written by the host: the operand is ignored, no state change (R149, R117). -/
def execStepChanged (_u : U32) (s : State F) : Host.Outcome (State F) Fault Refusal := .next s

end Sys2Proof.Machine
end

