-- ==== Sys2Proof/Machine/Flags.lean ====
section
/-! DEFINITION. "The hardware has no status flags, condition codes or predicates" (10_state.md R23), so there is no flag computation. What stands here are the error conditions that instructions test (60_exceptions.md R432, R430). -/

namespace Sys2Proof.Machine

variable {F : Format}

/-- BadWaveform: waveform index ≥ NWAVES (R230, R432). -/
def badWaveform (u : U32) : Bool := Config.numWaves ≤ u.toNat

/-- BadPatternIndex: pattern index ≥ NUM_PATTERNS (R182, R184, R432). -/
def badPatternIndex (c : EngineConfig F) (p : Nat) : Bool := c.numPatterns ≤ p

/-- BadPatternLength: a bad pattern index, length 0, or a length above MAX_STEPS (R183, R432). -/
def badPatternLength (c : EngineConfig F) (p len : Nat) : Bool :=
  badPatternIndex c p || len = 0 || Config.maxSteps < len

/-- An operand that SetTempo ignores: non-finite or ≤ 0 (R181). -/
def badTempo (v : F32) : Bool := !finite v || fle v fzero

end Sys2Proof.Machine
end

