-- ==== Sys2Proof/Machine/Operands.lean ====
section
/-! DEFINITION. The operand forms: the packed fields of SetStep and SetPatternLength (30_encoding.md R118, R119), and the sanitising of f32 and u32 operands (10_state.md R25). -/

namespace Sys2Proof.Machine

variable {F : Format}

/-! ## Packed fields (R118, R119) -/

/-- Bits 31:24, the pattern index of SetStep and SetPatternLength. -/
def patternField (u : U32) : U8 := u.extractLsb' 24 8

/-- Bits 19:16, the step slot of SetStep. -/
def slotField (u : U32) : Fin Config.maxSteps := (u.extractLsb' 16 4).toFin

/-- The Step that SetStep packs in bits 12:0. -/
def stepField (u : U32) : Step where
  pitch := u.extractLsb' 0 8
  enabled := u.getLsbD 8
  accent := u.getLsbD 9
  slide := u.getLsbD 10
  octaveDown := u.getLsbD 11
  octaveUp := u.getLsbD 12

/-- Bits 7:0, the new length of SetPatternLength. -/
def lengthField (u : U32) : U8 := u.extractLsb' 0 8

/-! ## Sanitising (R25, D13) -/

/-- The register value that an f32 operand leaves: a non-finite one is ignored, a finite one is clamped
to the legal range, as a REAL value. -/
def sanitise (lo hi old : REAL F) (v : F32) : REAL F := if finite v then fclamp (convert v) lo hi else old

/-- SetTempo's register value: a non-finite or non-positive operand is ignored, a greater one than
1.0e6 is taken as 1.0e6 (R181). -/
def sanitiseTempo (old : REAL F) (v : F32) : REAL F :=
  if badTempo v then old else fmin (convert v) (fnat 1000000)

/-- `clamp(u, 1, DELAY_CAP)` (R354). -/
def clampDelayLength (c : EngineConfig F) (u : U32) : Nat := min (max u.toNat 1) (delayCap c)

end Sys2Proof.Machine
end

