-- ==== Sys2Proof/Machine/DelayFamily.lean ====
section
/-! DEFINITION. The delay family: SetDelaySend, SetDelayFeedback, SetDelayLength (45_saturator_delay.md R352 to R354). -/

namespace Sys2Proof.Machine

variable {F : Format}

/-- `SetDelaySend v` (R352). -/
def execSetDelaySend (v : F32) (s : State F) : Host.Outcome (State F) Fault Refusal :=
  .next (updateParams (fun p => { p with delaySend := sanitise fzero fone p.delaySend v }) s)

/-- `SetDelayFeedback v` (R353). -/
def execSetDelayFeedback (v : F32) (s : State F) : Host.Outcome (State F) Fault Refusal :=
  .next (updateParams (fun p => { p with delayFeedback := sanitise fzero fone p.delayFeedback v }) s)

/-- `SetDelayLength u`; the buffer and `delayPos` stay (R354, R347). -/
def execSetDelayLength (u : U32) (s : State F) : Host.Outcome (State F) Fault Refusal :=
  .next (updateParams (fun p => { p with delayLength := clampDelayLength s.config u }) s)

end Sys2Proof.Machine
end

