-- ==== Sys2Proof/Machine/LadderFamily.lean ====
section
/-! DEFINITION. The ladder family: SetCutoff, SetResonance, SetEnvMod (44_ladder.md R320 to R322). Each recomputes the swept cutoff and the ladder's coefficients at once (D49); a non-finite operand does neither. -/

namespace Sys2Proof.Machine

variable {F : Format}

/-- `SetCutoff v` (R320). -/
def execSetCutoff (v : F32) (s : State F) : Host.Outcome (State F) Fault Refusal :=
  if finite v then
    .next (redesignLadder (updateParams (fun p => { p with cutoff := fclamp (convert v) fone s.config.fMax }) s))
  else .next s

/-- `SetResonance v` (R321). -/
def execSetResonance (v : F32) (s : State F) : Host.Outcome (State F) Fault Refusal :=
  if finite v then
    .next (redesignLadder (updateParams (fun p => { p with resonance := fclamp (convert v) fzero fone }) s))
  else .next s

/-- `SetEnvMod v` (R322). -/
def execSetEnvMod (v : F32) (s : State F) : Host.Outcome (State F) Fault Refusal :=
  if finite v then
    .next (redesignLadder (updateParams (fun p => { p with envMod := fclamp (convert v) fzero fone }) s))
  else .next s

end Sys2Proof.Machine
end

