-- ==== Sys2Proof/Machine/OscillatorFamily.lean ====
section
/-! DEFINITION. The oscillator family: SetWaveform (42_oscillator.md R230). -/

namespace Sys2Proof.Machine

variable {F : Format}

/-- `SetWaveform u`: selects the shape for later notes, or logs a bad index (R230). -/
def execSetWaveform (u : U32) (s : State F) : Host.Outcome (State F) Fault Refusal :=
  if h : badWaveform u then .next (logSkip .badWaveform u s)
  else
    let w : Fin Config.numWaves := ⟨u.toNat, by simpa [badWaveform] using h⟩
    .next (updateParams (fun p => { p with waveform := w }) s)

end Sys2Proof.Machine
end

