-- ==== Sys2Proof/Machine/SaturatorFamily.lean ====
section
/-! DEFINITION. The saturator family: SetDistortionShape, SetDistortionThreshold (45_saturator_delay.md R350, R351). -/

namespace Sys2Proof.Machine

variable {F : Format}

/-- `SetDistortionShape v` (R350). -/
def execSetDistortionShape (v : F32) (s : State F) : Host.Outcome (State F) Fault Refusal :=
  .next (updateParams (fun p => { p with distShape := sanitise fzero fone p.distShape v }) s)

/-- `SetDistortionThreshold v` (R351). -/
def execSetDistortionThreshold (v : F32) (s : State F) : Host.Outcome (State F) Fault Refusal :=
  .next (updateParams (fun p => { p with distAmount := sanitise fzero fone p.distAmount v }) s)

end Sys2Proof.Machine
end

