-- ==== Sys2Proof/Machine/SequencerFamily.lean ====
section
/-! DEFINITION. The sequencer family: SetRunning, SetTempo, SetStep, SetPatternLength, SetNextPattern (41_sequencer.md R180 to R184). -/

namespace Sys2Proof.Machine

variable {F : Format}

/-- `SetRunning u`: 0 stops; any other value starts a stopped sequencer and leaves a running one alone (R180). -/
def execSetRunning (u : U32) (s : State F) : Host.Outcome (State F) Fault Refusal :=
  if u = 0#32 then .next (updateSeq (fun q => { q with running := false }) s)
  else if s.seq.running then .next s
  else .next (updateSeq (seqStart s.config s.params.tempo) s)

/-- `SetTempo v`; `stepLength` is not recomputed (R181, R175). -/
def execSetTempo (v : F32) (s : State F) : Host.Outcome (State F) Fault Refusal :=
  .next (updateParams (fun p => { p with tempo := sanitiseTempo p.tempo v }) s)

/-- `SetStep u`: replaces one step of one pattern wholesale, or logs a bad pattern index (R182). -/
def execSetStep (u : U32) (s : State F) : Host.Outcome (State F) Fault Refusal :=
  if badPatternIndex s.config (patternField u).toNat then .next (logSkip .badPatternIndex u s)
  else .next (updateSeq (setStepSlot (patternField u).toNat (slotField u) (stepField u)) s)

/-- `SetPatternLength u`: sets the length of one pattern, or logs a bad index or length (R183). -/
def execSetPatternLength (u : U32) (s : State F) : Host.Outcome (State F) Fault Refusal :=
  if h : badPatternLength s.config (patternField u).toNat (lengthField u).toNat then
    .next (logSkip .badPatternLength u s)
  else
    let n : Fin (Config.maxSteps + 1) := ⟨(lengthField u).toNat, by simp [badPatternLength] at h; omega⟩
    .next (updateSeq (setLength (patternField u).toNat n) s)

/-- `SetNextPattern u`: queues a pattern, or logs a bad index; `currentPattern` is not touched (R184). -/
def execSetNextPattern (u : U32) (s : State F) : Host.Outcome (State F) Fault Refusal :=
  if badPatternIndex s.config u.toNat then .next (logSkip .badPatternIndex u s)
  else .next (updateSeq (fun q => { q with nextPattern := u.toNat }) s)

end Sys2Proof.Machine
end

