-- ==== Sys2Proof/Machine/VoiceFamily.lean ====
section
/-! DEFINITION. The voice family: SetDecay, SetAccent (46_voice.md R410, R411). -/

namespace Sys2Proof.Machine

variable {F : Format}

/-- `SetDecay v`; the multipliers wait for the next enabled step (R410). -/
def execSetDecay (v : F32) (s : State F) : Host.Outcome (State F) Fault Refusal :=
  .next (updateParams (fun p => { p with decay := sanitise fone (fnat 60000) p.decay v }) s)

/-- `SetAccent v` (R411). -/
def execSetAccent (v : F32) (s : State F) : Host.Outcome (State F) Fault Refusal :=
  .next (updateParams (fun p => { p with accentDepth := sanitise fzero fone p.accentDepth v }) s)

end Sys2Proof.Machine
end

