-- ==== Sys2Proof/Machine/Dispatch.lean ====
section
/-! DEFINITION. `apply(op, operand)`: "a flat dispatch over the Opcode" (40_decoder.md R151), one arm for each instruction. -/

namespace Sys2Proof.Machine

/-- The dispatch (R151). -/
def exec (i : Instr) (s : State) : Host.Outcome State Fault Refusal :=
  match i with
  | .nop => Sys2Proof.Machine.execNop s
  | .setWaveform u => Sys2Proof.Machine.execSetWaveform u s
  | .setRunning u => Sys2Proof.Machine.execSetRunning u s
  | .setStep u => Sys2Proof.Machine.execSetStep u s
  | .setPatternLength u => Sys2Proof.Machine.execSetPatternLength u s
  | .setNextPattern u => Sys2Proof.Machine.execSetNextPattern u s
  | .setDelayLength u => Sys2Proof.Machine.execSetDelayLength u s
  | .setCutoff v => Sys2Proof.Machine.execSetCutoff v s
  | .setResonance v => Sys2Proof.Machine.execSetResonance v s
  | .setEnvMod v => Sys2Proof.Machine.execSetEnvMod v s
  | .setDecay v => Sys2Proof.Machine.execSetDecay v s
  | .setAccent v => Sys2Proof.Machine.execSetAccent v s
  | .setDistortionShape v => Sys2Proof.Machine.execSetDistortionShape v s
  | .setDistortionThreshold v => Sys2Proof.Machine.execSetDistortionThreshold v s
  | .setDelaySend v => Sys2Proof.Machine.execSetDelaySend v s
  | .setDelayFeedback v => Sys2Proof.Machine.execSetDelayFeedback v s
  | .setTempo v => Sys2Proof.Machine.execSetTempo v s
  | .stepChanged u => Sys2Proof.Machine.execStepChanged u s

end Sys2Proof.Machine
end

