-- ==== Sys2Proof/Machine/Fetch.lean ====
section
/-! DEFINITION. Fetching an instruction's bytes, and the boundary operations of a call: its start, the end of its decode phase, and `initialize()` (40_decoder.md R140 to R146, 70_reset_and_hazards.md R462). -/

namespace Sys2Proof.Machine

variable {F : Format}

/-- The bytes of CMD from `pos` to the cursor: what the decoder may read (R87, R142). -/
def bytesBeforeCursor (s : State F) (pos : Nat) : List U8 := memReadBytes s.cmd pos (s.cursor - pos)

/-- The first bytes from `pos` before the cursor, as many as the longest instruction has (R110). -/
def fetchWindow (s : State F) (pos : Nat) : List U8 := memReadBytes s.cmd pos (min 5 (s.cursor - pos))

/-- The start of `process(validLength)`: the cursor is clamped, the notification stream restarts, and the
decode phase begins at offset 0 (R140, R141). -/
def beginProcess (validLength : U32) (s : State F) : State F :=
  { s with
    stage := .decode 0
    cursor := min validLength.toNat s.config.cmdCap
    returned := none
    notifyLen := 0 }

/-- The end of the decode phase: "the cursor is reset to zero" and the block's first sample is next
(R22, R140, R144). -/
def endDecode (s : State F) : State F :=
  { s with stage := .render 0, cursor := 0 }

/-- `initialize()`: the sample counter and the sequencer's counter restart, nothing else (R462). -/
def initializeEngine (s : State F) : State F :=
  { s with sampleCount := 0#64, seq := { s.seq with counter := 0#32 } }

/-- One move of the host on an idle engine (R99). It writes "bytes at offsets 0 .. CMD_CAP−1" of CMD; a write
elsewhere is none of its moves and changes nothing (log 2). -/
def hostMove (c : HostCall) (s : State F) : State F :=
  match c with
  | .callInitialize => initializeEngine s
  | .writeCmd offset byte =>
    { s with cmd := if offset < s.config.cmdCap then memWrite offset byte s.cmd else s.cmd }
  | .process validLength => beginProcess validLength s

/-- The stage after sample `i` of the block (R147). -/
def nextStage (c : EngineConfig F) (i : Nat) : Stage :=
  if i + 1 < c.blockLen then .render (i + 1) else .idle

/-- What `process` has returned after sample `i`: the cursor once the block is complete (R140, R146). -/
def returnedAfter (i : Nat) (s : State F) : Option U32 :=
  if i + 1 < s.config.blockLen then s.returned else some (BitVec.ofNat 32 s.cursor)

/-- The render loop's writes for sample `i`: the sample to both buffers (R147), each element of which is a binary32
value (R84). -/
def storeSample (i : Nat) (x : REAL F) (s : State F) : State F :=
  { s with
    outL := writeSample i (convert x) s.outL
    outR := writeSample i (convert x) s.outR
    stage := nextStage s.config i
    returned := returnedAfter i s }

/-- Where the next instruction of the command stream is placed: at the read position of a decode phase
with room for it, else at offset 0 of a new decode phase (R141). -/
def placeOffset (s : State F) : Nat :=
  match s.stage with
  | .decode pos => if pos + 5 ≤ s.config.cmdCap then pos else 0
  | _ => 0

/-- `s` with the five bytes placed where the decoder reads next, and the cursor after them. -/
def placeBytes (bs : List U8) (s : State F) : State F :=
  { s with
    cmd := memWriteBytes (placeOffset s) bs s.cmd
    cursor := min (max s.cursor (placeOffset s + 5)) s.config.cmdCap
    stage := .decode (placeOffset s) }

end Sys2Proof.Machine
end

