-- ==== Sys2Proof/Machine/Saturate.lean ====
section
/-! DEFINITION. The foldback saturator (45_saturator_delay.md R340, R341): stateless (10_state.md R62). -/

namespace Sys2Proof.Machine

variable {F : Format}

/-- The threshold `t = 1 − 0.9 * distAmount` (R340). -/
def satThreshold (amount : REAL F) : REAL F := fsub fone (fmul (fratio 9 10) amount)

/-- The raw folded value: a triangle of period 4t, the identity on [−t, t] (R341). -/
def satFold (t x : REAL F) : REAL F :=
  let t4 := fmul (fnat 4) t
  let m := fsub (fadd x t) (fmul t4 (ffloor (fdiv (fadd x t) t4)))
  fsub t (fabs (fsub m (fmul ftwo t)))

/-- `saturate(x)` (R341), under the amount and the shape. -/
def saturate (amount shape x : REAL F) : REAL F :=
  let t := satThreshold amount
  let gain := fdiv fone t
  if fle (fabs x) t then fmul x gain
  else
    let clip := fclamp x (fneg t) t
    fmul (fadd clip (fmul shape (fsub (satFold t x) clip))) gain

end Sys2Proof.Machine
end

