-- ==== Sys2Proof/Machine/Wavetable.lean ====
section
/-! DEFINITION. The wavetable (42_oscillator.md R220, 10_state.md R47): a constant of the machine, computed in binary64 and rounded to REAL. -/

namespace Sys2Proof.Machine

variable {F : Format}

/-- The two functions that R220 takes beside binary64 arithmetic. The definitions below have them as an argument,
so that a property of the table can name the property of these functions that it needs (93 I6). -/
structure WaveMath where
  sin : F64 → F64
  pow : F64 → F64 → F64

/-- The engine's own: the parameter functions of Config.lean. -/
def waveMath : WaveMath := ⟨Config.sin, Config.pow⟩

/-- `f_n = 440 * 2^((n - 69) / 12)` in binary64 (R220). -/
def waveFreq (M : WaveMath) (n : Nat) : F64 :=
  fmul (fnat 440) (M.pow (fnat 2) (fdiv (fint (n - 69 : Int)) (fnat 12)))

/-- The least natural number not below a non-negative value; the saturation that `H_n`'s `min` makes of
an infinity or a large value is `cap`, and a NaN's value is open (log 9). -/
def ceilUpTo (cap : Nat) (a : F64) : Nat :=
  match datum a with
  | .nan => Config.harmonicsOpen a.toNat
  | .inf neg => if neg then 0 else cap
  | .fin neg m e =>
    if neg then 0
    else if 0 ≤ e then min cap (m * 2 ^ e.toNat)
    else min cap ((m + 2 ^ (-e).toNat - 1) / 2 ^ (-e).toNat)

/-- `H_n = max(1, min(L/2 - 1, ceil(SR / (2 * f_n)) - 1))` (R220, C15).
DESIGN CHOICE (log 28): for an odd L, which R7 allows and for which `L/2 - 1` is no integer, L/2 is its floor. The spec
gives no rounding there. -/
def harmonicLimit (M : WaveMath) (c : EngineConfig F) (n : Nat) : Nat :=
  max 1 (min (c.tableLen / 2 - 1)
    (ceilUpTo (c.tableLen / 2) (fdiv (fnat c.sampleRate) (fmul (fnat 2) (waveFreq M n))) - 1))

/-- The Lanczos sigma, `sin(pi*k/(H+1)) / (pi*k/(H+1))` (R220). -/
def lanczosSigma (M : WaveMath) (k H : Nat) : F64 :=
  let a := fdiv (fmul fpi (fnat k)) (fnat (H + 1))
  fdiv (M.sin a) a

/-- `sin(2*pi*k*i/L)`, evaluated at `j = (k·i) mod L`, "which is equal in exact arithmetic"
(95_test_vectors.md section 0; log 9). -/
def waveSine (M : WaveMath) (c : EngineConfig F) (k i : Nat) : F64 :=
  M.sin (fdiv (fmul (fmul (fnat 2) fpi) (fnat (k * i % c.tableLen))) (fnat c.tableLen))

/-- One term of the sum (R220): `sigma(k,H) * sin(2*pi*k*i/L) / k`. -/
def waveTerm (M : WaveMath) (c : EngineConfig F) (H k i : Nat) : F64 :=
  fdiv (fmul (lanczosSigma M k H) (waveSine M c k i)) (fnat k)

/-- The sum over k = 1..K in rising order from 0 (DEDUCED, log 9), odd k only for the square (w = 1) (R220). -/
def waveSum (M : WaveMath) (c : EngineConfig F) (w H i : Nat) : Nat → F64
  | 0 => fnat 0
  | K + 1 =>
    if w = 1 ∧ (K + 1) % 2 = 0 then waveSum M c w H i K
    else fadd (waveSum M c w H i K) (waveTerm M c H (K + 1) i)

/-- `raw[w][n][i]` (R220). -/
def waveRaw (M : WaveMath) (c : EngineConfig F) (w n i : Nat) : F64 :=
  waveSum M c w (harmonicLimit M c n) i (harmonicLimit M c n)

/-- The greater of the running peak and |x| (R220). -/
def peakStep (p x : F64) : F64 := if flt p (fabs x) then fabs x else p

/-- The peak over i < I of one segment, from the running peak `p`. -/
def segmentPeak (M : WaveMath) (c : EngineConfig F) (w n : Nat) : Nat → F64 → F64
  | 0, p => p
  | I + 1, p => peakStep (segmentPeak M c w n I p) (waveRaw M c w n I)

/-- The peak over the segments n < N of a group. -/
def groupPeak (M : WaveMath) (c : EngineConfig F) (w : Nat) : Nat → F64
  | 0 => fnat 0
  | N + 1 => segmentPeak M c w N c.tableLen (groupPeak M c w N)

/-- `T[w][n][i] = raw[w][n][i] / peak[w]`, rounded to REAL (R220, R47). -/
def tableEntry (M : WaveMath) (c : EngineConfig F) (w n i : Nat) : REAL F :=
  convert (fdiv (waveRaw M c w n i) (groupPeak M c w Config.numNotes))

/-- The engine's table `T` (R47). -/
@[irreducible] def wavetable (c : EngineConfig F) (w : Fin Config.numWaves) (n : Fin Config.numNotes) (i : Nat) : REAL F :=
  tableEntry waveMath c w n i

end Sys2Proof.Machine
end

