-- ==== Sys2Proof/Machine/Tone.lean ====
section
/-! DEFINITION. The oscillator's operations (42_oscillator.md R210 to R218). -/

namespace Sys2Proof.Machine

variable {F : Format}

/-- `freqOf(p) = 440 * 2^((p - 69) / 12)` (R210). -/
def freqOf (p : REAL F) : REAL F :=
  fmul (fnat 440) (Config.pow ftwo (fdiv (fsub p (fnat 69)) (fnat 12)))

/-- `incOf(p) = freqOf(p) * L / SR` (R210). -/
def incOf (c : EngineConfig F) (p : REAL F) : REAL F := fdiv (fmul (freqOf p) (ftableLen c)) (fsr c)

/-- `noteIndex(p) = clamp(roundHalfAway(p), 0, 127)` (R215). -/
def noteIndex (p : REAL F) : Fin Config.numNotes :=
  Fin.ofNat Config.numNotes (floorU32 (fclamp (froundHalfAway p) fzero (fnat 127))).toNat

/-- `oscReset(p)`: a new note, phase 0, any glide cancelled: every element of the oscillator is written (R211). -/
def oscReset (c : EngineConfig F) (waveform : Fin Config.numWaves) (p : REAL F) : Oscillator F where
  inc := incOf c p
  segNote := noteIndex p
  segWave := waveform
  phase := fzero
  glideLeft := 0
  glideDelta := fzero
  glideTarget := incOf c p

/-- `oscSlide(p)`: a glide to a new note; `phase` and `inc` stay (R212). -/
def oscSlide (c : EngineConfig F) (waveform : Fin Config.numWaves) (p : REAL F) (o : Oscillator F) : Oscillator F :=
  { o with
    glideTarget := incOf c p
    glideDelta := fdiv (fsub (incOf c p) o.inc) (fnat c.glideTicks)
    glideLeft := c.glideTicks
    segNote := noteIndex p
    segWave := waveform }

/-- The wrapped phase of `advancePhase()`, with its two rounding guards (R214, D26). -/
def wrapPhase (c : EngineConfig F) (ph : REAL F) : REAL F :=
  let L := ftableLen c
  if fle L ph then
    let p1 := fsub ph (fmul L (ffloor (fdiv ph L)))
    let p2 := if flt p1 fzero then fadd p1 L else p1
    if fle L p2 then fsub p2 L else p2
  else ph

/-- `advancePhase()` (R214). -/
def advancePhase (c : EngineConfig F) (o : Oscillator F) : Oscillator F :=
  { o with phase := wrapPhase c (fadd o.phase o.inc) }

/-- The table index of a phase: `floor_u32(phase) mod L` (R213). -/
def tableIndex (c : EngineConfig F) (ph : REAL F) : Nat := (floorU32 ph).toNat % c.tableLen

/-- The entry `k mod L` of the current segment (R213). -/
def segmentEntry (c : EngineConfig F) (o : Oscillator F) (k : Nat) : REAL F :=
  wavetable c o.segWave o.segNote (k % c.tableLen)

/-- The "linear-interpolated table lookup at the current phase" (R213). -/
def oscSample (c : EngineConfig F) (o : Oscillator F) : REAL F :=
  let i := tableIndex c o.phase
  let fr := fsub o.phase (fnat i)
  let a := segmentEntry c o i
  let b := segmentEntry c o (i + 1)
  fadd a (fmul fr (fsub b a))

/-- `oscRender()` (R213). -/
def oscRender (c : EngineConfig F) (o : Oscillator F) : Oscillator F × REAL F := (advancePhase c o, oscSample c o)

/-- `oscUpdate()`, once a control tick (R216). -/
def oscUpdate (o : Oscillator F) : Oscillator F :=
  if o.glideLeft = 0 then o
  else
    { o with
      glideLeft := o.glideLeft - 1
      inc := if o.glideLeft = 1 then o.glideTarget else fadd o.inc o.glideDelta }

end Sys2Proof.Machine
end

