-- ==== Sys2Proof/Machine/Voice.lean ====
section
/-! DEFINITION. The voice's per-sample procedure (46_voice.md R390 to R403), with the delay line (45_saturator_delay.md R345). -/

namespace Sys2Proof.Machine

variable {F : Format}

/-- What an enabled step does to the voice (R391): the accent, the multipliers, and a glide or a new
note with both envelopes set to 1. -/
def playStep (st : Step) (s : State F) : State F :=
  let m := decayMul s.config (stepDecay s.config st.accent s.params.decay)
  let s1 := { s with accentActive := st.accent, ampMul := m, filtMul := m }
  if st.slide then updateOsc (oscSlide s.config s.params.waveform (targetPitch st)) s1
  else
    { updateOsc (fun _ => oscReset s.config s.params.waveform (targetPitch st)) s1 with ampEnv := fone, filtEnv := fone }

/-- `onStep(p, st)` (R391): a disabled step only notifies (R395). -/
def onStep (p : Fin Config.maxSteps) (st : Step) (s : State F) : State F :=
  pushNotify p (if st.enabled then playStep st s else s)

/-- (1) The sequencer's advance and the reaction to its event (R390, R391). -/
def voiceSequence (s : State F) : State F :=
  let adv := seqAdvance s.config s.params.tempo s.seq
  let s1 := { s with seq := adv.1 }
  match adv.2 with
  | none => s1
  | some (p, st) => onStep p st s1

/-- (2) Both envelopes decay (R397). -/
def decayEnvelopes (s : State F) : State F :=
  { s with ampEnv := fmul s.ampEnv s.ampMul, filtEnv := fmul s.filtEnv s.filtMul }

/-- `controlTick()` (R398). -/
def controlTick (s : State F) : State F := updateOsc oscUpdate (redesignLadder s)

/-- Whether this sample is a control tick (R398, R399). -/
def isControlTick (s : State F) : Bool := s.sampleCount.toNat % Config.ctrlPeriod = 0

/-- (5) "high-pass → ladder filter → all-pass → high-pass → notch" (R390, R400). -/
def filterChain (s : State F) (x : REAL F) : State F × REAL F :=
  let a := onePoleRender s.config s.hp1 x
  let b := ladderRender s.config s.ladder a.2
  let c := onePoleRender s.config s.ap b.2
  let d := onePoleRender s.config s.hp2 c.2
  let e := biquadRender s.config s.notch d.2
  ({ s with hp1 := a.1, ladder := b.1, ap := c.1, hp2 := d.1, notch := e.1 }, e.2)

/-- (6) The declicked output gain (R390, R403). -/
def applyGain (s : State F) (x : REAL F) : State F × REAL F :=
  let d := biquadRender s.config s.declick (gainRaw s.params s.accentActive s.ampEnv)
  ({ s with declick := d.1 }, fmul x d.2)

/-- (8) `delayRender(x)` (R345): the tap is read before the write (R346). -/
def delayRender (s : State F) (x : REAL F) : State F × REAL F :=
  let prev := memRead s.delayBuf s.delayPos
  let stored :=
    fadd (fadd (fmul s.params.delaySend x) (fmul s.params.delayFeedback prev)) s.config.denormalBias
  ({ s with
      delayBuf := memWrite s.delayPos stored s.delayBuf
      delayPos := (s.delayPos + 1) % s.params.delayLength },
    fadd x prev)

/-- The delay over a stretch of input samples: the state after it and the outputs, in order (R348). -/
def delayRun : List (REAL F) → State F → State F × List (REAL F)
  | [], s => (s, [])
  | x :: xs, s =>
    let d := delayRender s x
    let r := delayRun xs d.1
    (r.1, d.2 :: r.2)

/-- (3) and (4): the oscillator's sample, then the control tick if this sample is one (R390). -/
def voiceTone (s : State F) : State F × REAL F :=
  let r := oscRender s.config s.osc
  let s1 := { s with osc := r.1 }
  (if isControlTick s1 then controlTick s1 else s1, r.2)

/-- (5) to (8): the signal path of one oscillator sample (R390). -/
def voicePath (s : State F) (x : REAL F) : State F × REAL F :=
  let c := filterChain s x
  let g := applyGain c.1 c.2
  delayRender g.1 (saturate g.1.params.distAmount g.1.params.distShape g.2)

/-- `voiceRender()`: one output sample (R390). -/
def voiceRender (s : State F) : State F × REAL F :=
  let t := voiceTone (decayEnvelopes (voiceSequence s))
  let r := voicePath t.1 t.2
  ({ r.1 with sampleCount := r.1.sampleCount + 1#64 }, r.2)

end Sys2Proof.Machine
end

