-- ==== Sys2Proof/Machine/Step.lean ====
section
/-! DEFINITION. One step of the machine: the construction of the engine, a move of the host, one instruction of the decode phase, the end of that phase, or one sample of the block (40_decoder.md R140; log 1). The REAL format is a parameter of the step relation (10_state.md R63): the step below is that of any format, which takes the format's dispatch, and the machine's own is that of the decided one. -/

namespace Sys2Proof.Machine

variable {F : Format}

/-- Construction "either builds the whole state ... or it fails and no engine exists" (R434); the host's calls that
are still to come stay with the host. -/
def stepConstruct (resources : Bool) (s : State F) : Host.Outcome (State F) Fault Refusal :=
  if resources then .next { State.construct s.config with host := s.host } else .fault .constructionFailed

/-- An idle engine takes the host's next call; with none it does nothing (R445). -/
def stepIdle (s : State F) : Host.Outcome (State F) Fault Refusal :=
  match s.host with
  | [] => .next s
  | c :: rest => .next (hostMove c { s with host := rest })

/-- The application of one decoded instruction (R151). -/
abbrev Apply (F : Format) := Instr → State F → Host.Outcome (State F) Fault Refusal

/-- `decodeStep()`: the instruction at `pos` is applied after `pos` has moved past it, or the phase ends
(R142, R144). -/
def stepDecode (apply : Apply F) (pos : Nat) (s : State F) : Host.Outcome (State F) Fault Refusal :=
  match decode (fetchWindow s pos) with
  | .ok (i, _) => apply i { s with stage := .decode (pos + i.size) }
  | .error _ => .next (endDecode s)

/-- One sample of the block, written to both buffers (R147). -/
def stepRender (i : Nat) (s : State F) : Host.Outcome (State F) Fault Refusal :=
  .next (storeSample i (voiceRender s).2 (voiceRender s).1)

/-- One step of a machine that applies its instructions by `apply`. -/
def stepWith (apply : Apply F) (s : State F) : Host.Outcome (State F) Fault Refusal :=
  match s.stage with
  | .constructing resources => stepConstruct resources s
  | .idle => stepIdle s
  | .decode pos => stepDecode apply pos s
  | .render i => stepRender i s

/-- One step of the machine. -/
def step (s : State) : Host.Outcome State Fault Refusal := stepWith exec s

/-- `s` with the instruction of an opcode-table word placed so that the next step decodes and applies it
(log 23). -/
def State.withFetchWord (s : State) (nbits w : Nat) : State := placeBytes (tableBytes nbits w) s

end Sys2Proof.Machine
end

