-- ==== Sys2Proof/Machine/HostView.lean ====
section
/-! DEFINITION. What the host sees, which is between calls only (10_state.md R64, 20_memory.md R80, R81, R84, R89). -/

namespace Sys2Proof.Machine

variable {F : Format}

/-- All that the host can read (R64): "the audio buffers ..., the notification stream ..., the logging
channel ... and the command buffer it wrote", and what `process` returned (R99). -/
structure HostView where
  cmd : Memory 8
  outL : Memory 8
  outR : Memory 8
  notifications : List U8
  log : List LogRecord
  returned : Option U32
deriving DecidableEq, Repr

/-- The notification bytes that the last call left: those below `notifyLen` (R60, R99). -/
def notifications (s : State F) : List U8 := memReadBytes s.notify 0 s.notifyLen

/-- The host's view of a state (R64), none while a call runs or no engine exists: "The host observes the regions
only before the call and after its return, never in between" (R89). -/
def hostView (s : State F) : Option HostView :=
  if s.stage = .idle then some ⟨s.cmd, s.outL, s.outR, notifications s, s.log, s.returned⟩ else none

/-- The platform's bases of the four host regions, CMD_BASE, OUTL_BASE, OUTR_BASE and NOTIFY_BASE: "the
model takes them as arguments" (R81; log 11). -/
structure RegionBases where
  cmd : Nat
  outL : Nat
  outR : Nat
  notify : Nat
deriving DecidableEq, Repr

/-- The size in bytes of an audio output region: BLOCK_LEN elements of 4 bytes (R80). -/
abbrev outBytes (c : EngineConfig F) : Nat := 4 * c.blockLen

/-- Two regions, each a base and a size, do not overlap. -/
def apart (a n b m : Nat) : Bool := a + n ≤ b || b + m ≤ a

/-- "The four regions do not overlap one another" (R81). -/
def disjointRegions (c : EngineConfig F) (r : RegionBases) : Bool :=
  apart r.cmd c.cmdCap r.outL (outBytes c) && apart r.cmd c.cmdCap r.outR (outBytes c) &&
  apart r.cmd c.cmdCap r.notify c.notifyCap && apart r.outL (outBytes c) r.outR (outBytes c) &&
  apart r.outL (outBytes c) r.notify c.notifyCap && apart r.outR (outBytes c) r.notify c.notifyCap

/-- The byte that stands at an address of the host's space; none where no region lies (R81, R91). -/
def regionByte (r : RegionBases) (s : State F) (a : Nat) : Option U8 :=
  if r.cmd ≤ a ∧ a < r.cmd + s.config.cmdCap then some (memRead s.cmd (a - r.cmd))
  else if r.outL ≤ a ∧ a < r.outL + outBytes s.config then some (memRead s.outL (a - r.outL))
  else if r.outR ≤ a ∧ a < r.outR + outBytes s.config then some (memRead s.outR (a - r.outR))
  else if r.notify ≤ a ∧ a < r.notify + s.config.notifyCap then some (memRead s.notify (a - r.notify))
  else none

/-- The byte that the host reads at an address of its own space: none inside a call, as in `hostView` (R89). -/
def hostByte (r : RegionBases) (s : State F) (a : Nat) : Option U8 :=
  if s.stage = .idle then regionByte r s a else none

end Sys2Proof.Machine
end

