-- ==== Sys2Proof/Machine/Process.lean ====
section
/-! DEFINITION. `process(validLength)` as one atomic transaction (40_decoder.md R140, R143; 00_scope.md R3): what the steps of one call add up to. -/

namespace Sys2Proof.Machine

variable {F : Format}

/-- The decoded instructions applied in stream order (R143). -/
def applyAll (apply : Apply F) : List Instr → State F → Host.Outcome (State F) Fault Refusal
  | [], s => .next s
  | i :: rest, s =>
    match apply i s with
    | .next t => applyAll apply rest t
    | .fault r => .fault r
    | .refused r => .refused r

/-- One pass of the render loop (R147). -/
def renderSample (i : Nat) (s : State F) : State F :=
  storeSample i (voiceRender s).2 (voiceRender s).1

/-- The block's samples i = 0 .. BLOCK_LEN−1, in increasing index (R140, R147). -/
def renderBlock (s : State F) : State F :=
  (List.range s.config.blockLen).foldl (fun t i => renderSample i t) s

/-- `process(validLength)` (R140) of a machine that applies its instructions by `apply`: decode everything before the
cursor and apply it in order, drain, then render one block. The value returned stands in `returned`. -/
def processWith (apply : Apply F) (validLength : U32) (s : State F) : Host.Outcome (State F) Fault Refusal :=
  let s0 := beginProcess validLength s
  match applyAll apply (decodeStream (bytesBeforeCursor s0 0)) s0 with
  | .next t => .next (renderBlock (endDecode t))
  | .fault r => .fault r
  | .refused r => .refused r

/-- `process(validLength)` of the machine. -/
def process (validLength : U32) (s : State) : Host.Outcome State Fault Refusal := processWith exec validLength s

end Sys2Proof.Machine
end

