-- ==== Sys2Proof/Safety.lean ====
section
/-! DEFINITION. Legal states: every range and relation that the spec gives the state's elements and that the types of State do not already hold, at every legal choice of the implementation parameters. -/

namespace Sys2Proof.Machine

variable {F : Format}

/-- A finite REAL value in [lo, hi]. -/
abbrev inRange (lo hi v : REAL F) : Prop := finite v = true ∧ fle lo v = true ∧ fle v hi = true

/-- What the rules ask of the implementation parameters: sizes that are u32 values (R9), a bank with a pattern, a
block with a sample, a table with an entry, a glide with a tick (R41, R59, R47, R46), a construction delay length
floor(SR/4) of at least 1, and an F_MAX that admits the construction cutoff 500.0 (R24). -/
structure ConfigLegal (c : EngineConfig F) : Prop where
  sampleRate : 4 ≤ c.sampleRate ∧ delayCap c < 2 ^ 32
  tableLen : 1 ≤ c.tableLen ∧ c.tableLen < 2 ^ 32
  blockLen : 1 ≤ c.blockLen ∧ c.blockLen < 2 ^ 32
  cmdCap : c.cmdCap < 2 ^ 32
  notifyCap : c.notifyCap < 2 ^ 32
  numPatterns : 1 ≤ c.numPatterns ∧ c.numPatterns < 2 ^ 32
  glideTicks : 1 ≤ c.glideTicks ∧ c.glideTicks < 2 ^ 32
  fMax : finite c.fMax = true ∧ fle (fnat 500) c.fMax = true

/-- The legal values of the voice parameter registers (R24). -/
structure Params.Legal (c : EngineConfig F) (p : Params F) : Prop where
  cutoff : inRange fone c.fMax p.cutoff
  resonance : inRange fzero fone p.resonance
  envMod : inRange fzero fone p.envMod
  decay : inRange fone (fnat 60000) p.decay
  accentDepth : inRange fzero fone p.accentDepth
  distShape : inRange fzero fone p.distShape
  distAmount : inRange fzero fone p.distAmount
  delaySend : inRange fzero fone p.delaySend
  delayFeedback : inRange fzero fone p.delayFeedback
  delayLength : 1 ≤ p.delayLength ∧ p.delayLength ≤ delayCap c
  tempo : inRange fzero (fnat 1000000) p.tempo
  tempoPositive : flt fzero p.tempo = true

/-- The sequencer's ranges: a bank of NUM_PATTERNS patterns, each of length at least 1 (R41), pattern indices that
name one (R40), `stepLength ≥ 1` (R39) and `counter < stepLength` (R176). -/
structure Sequencer.Legal (c : EngineConfig F) (q : Sequencer) : Prop where
  bank : q.patterns.length = c.numPatterns
  length : ∀ p ∈ q.patterns, 1 ≤ p.length.val
  currentPattern : q.currentPattern < c.numPatterns
  nextPattern : q.nextPattern < c.numPatterns
  stepLength : 1 ≤ q.stepLength.toNat
  counter : q.counter.toNat < q.stepLength.toNat

/-- A memory in canonical form whose cells all lie inside a region of the given size (R80, R92). -/
structure Memory.Within {w : Nat} (m : Memory w) (size : Nat) : Prop where
  canonical : m.wf
  inside : ∀ c ∈ m, c.1 < size

/-- What holds at each stage of a call: the read position never passes the cursor (R21), the cursor is 0
outside the decode phase (R22), and a block has pushed at most one notification a sample (R394). While the engine is
being constructed there is no engine, and no legal state (R434). -/
def Stage.Legal (c : EngineConfig F) (cursor notifyLen : Nat) : Stage → Prop
  | .constructing _ => False
  | .idle => cursor = 0
  | .decode pos => pos ≤ cursor ∧ notifyLen = 0
  | .render i => cursor = 0 ∧ i < c.blockLen ∧ notifyLen ≤ 5 * i

/-- A legal state. -/
structure State.Legal (s : State F) : Prop where
  config : ConfigLegal s.config
  stage : s.stage.Legal s.config s.cursor s.notifyLen
  cursor : s.cursor ≤ s.config.cmdCap
  params : s.params.Legal s.config
  seq : s.seq.Legal s.config
  glideLeft : s.osc.glideLeft ≤ s.config.glideTicks
  cmd : Memory.Within s.cmd s.config.cmdCap
  outL : Memory.Within s.outL (outBytes s.config)
  stereo : s.outR = s.outL
  notify : Memory.Within s.notify s.config.notifyCap
  delayBuf : Memory.Within s.delayBuf (delayCap s.config)
  delayPos : s.delayPos < delayCap s.config
  /-- The stream holds whole notifications of 5 bytes (R60, R394). -/
  notifyLen : s.notifyLen % 5 = 0 ∧ s.notifyLen ≤ s.config.notifyCap
  /-- "NotifyOverflow cannot occur with the decided parameters" (R432), nor with any that give a block room for a
  notification a sample. -/
  noOverflow : 5 * s.config.blockLen ≤ s.config.notifyCap → ∀ r ∈ s.log, r.kind ≠ .notifyOverflow

/-- An engine exists: its construction is over (R434). -/
def State.constructed (s : State F) : Bool :=
  match s.stage with
  | .constructing _ => false
  | .idle | .decode _ | .render _ => true

end Sys2Proof.Machine
end

