-- ==== Sys2Proof/Certificates/Slice0/Obligations.lean ====
section
/-! DEFINITION. The statements for the provers. Each docstring names the rules of spec/ that it formalises or rests on. -/

open Sys2Proof Sys2Proof.Machine

/-! ## Expressions of the rules

What the statements below compare the model's operations with: each rule's expression, written out from the rule over
the operations of R12 and R13. -/

/-- R171: "max(1, floor_u32(SR * 60 / t / 4))", "evaluated in REAL, left to right". -/
def Sys2Proof.Claims.stepLength (c : EngineConfig binary32) (t : F32) : U32 :=
  BitVec.ofNat 32 (max 1 (floorU32 (fdiv (fdiv (fmul (fnat c.sampleRate) (fnat 60)) t) (fnat 4))).toNat)

/-- R210: freqOf(p) * L / SR, where freqOf(p) = 440 * 2^((p - 69) / 12). -/
def Sys2Proof.Claims.increment (c : EngineConfig binary32) (p : F32) : F32 :=
  let freq := fmul (fnat 440) (Config.pow (fnat 2) (fdiv (fsub p (fnat 69)) (fnat 12)))
  fdiv (fmul freq (fnat c.tableLen)) (fnat c.sampleRate)

/-- R393, R215: the segment of a step, its pitch ± 12 clamped to 0 .. 127 ("In this engine p is always an integer, the
step pitch ± 12"). -/
def Sys2Proof.Claims.segment (st : Step) : Int :=
  max 0 (min 127 ((st.pitch.toNat : Int) - (if st.octaveDown then 12 else 0) + (if st.octaveUp then 12 else 0)))

/-- R391, R392: exp(−1000 / (d * SR)), where d is min(decay, ACCENT_DECAY_MS) under an accent, else decay. -/
def Sys2Proof.Claims.multiplier (c : EngineConfig binary32) (accent : Bool) (decay : F32) : F32 :=
  let d := if accent then fmin decay c.accentDecayMs else decay
  Config.exp (fdiv (fneg (fnat 1000)) (fmul d (fnat c.sampleRate)))

/-- R401: min(cutoff * 2^e, F_MAX), where e is ENV_MOD_OCT * envMod * filtEnv, and ACCENT_MOD_OCT * accentDepth *
filtEnv more under an accent. -/
def Sys2Proof.Claims.swept (c : EngineConfig binary32) (p : Params binary32) (accent : Bool) (filtEnv : F32) : F32 :=
  let e := fmul (fmul c.envModOct p.envMod) filtEnv
  let octaves := if accent then fadd e (fmul (fmul c.accentModOct p.accentDepth) filtEnv) else e
  fmin (fmul p.cutoff (Config.pow (fnat 2) octaves)) c.fMax

/-- R301, R302, R303, R304: the ladder with the coefficients `b0`, `g` and `k` that a cutoff `fc` and a resonance
`res` give, and everything else kept. -/
def Sys2Proof.Claims.redesigned (c : EngineConfig binary32) (ld : Ladder binary32) (fc res : F32) : Ladder binary32 :=
  let fx := fdiv fc (fmul (fnat c.sampleRate) (fsqrt (fnat 2)))
  let b0 := fdiv (fadd (fratio 45522346 100000000000) (fmul (fratio 61922189 10000000) fx))
    (fadd (fadd (fnat 1) (fmul (fratio 12358354 1000000) fx)) (fmul (fmul (fratio 44156345 10000000) fx) fx))
  let k5 := fmul fx (fadd fx (fratio 71986997 10000))
  let k4 := fmul fx (fsub k5 (fratio 58377917 10000))
  let k3 := fmul fx (fsub k4 (fratio 47647308 100000))
  let k2 := fmul fx (fadd k3 (fratio 61495611 100000))
  let k1 := fmul fx (fadd k2 (fratio 21387126 100000))
  let kRaw := fadd k1 (fratio 16998792 1000000)
  let r := fdiv (fsub (fnat 1) (Config.exp (fmul (fneg (fnat 3)) res))) (fsub (fnat 1) (Config.exp (fneg (fnat 3))))
  { ld with
    b0 := b0
    g := fmul (fadd (fmul (fsub (fdiv kRaw (fnat 17)) (fnat 1)) r) (fnat 1)) (fadd (fnat 1) r)
    k := fmul kRaw r }

/-- R214: the phase after `advancePhase()`: phase + inc, and where that is at least L, what L times the floor of
phase / L leaves of it, with the two rounding guards. -/
def Sys2Proof.Claims.advanced (c : EngineConfig binary32) (phase inc : F32) : F32 :=
  let L := fnat c.tableLen
  let sum := fadd phase inc
  let rest := fsub sum (fmul L (ffloor (fdiv sum L)))
  let low := if flt rest (fnat 0) then fadd rest L else rest
  if fle L sum then (if fle L low then fsub low L else low) else sum

/-- R216: the oscillator after `oscUpdate()`: one increment of a glide, the last of which puts `inc` on its target. -/
def Sys2Proof.Claims.glided (o : Oscillator binary32) : Oscillator binary32 :=
  { o with
    glideLeft := o.glideLeft - 1
    inc := if o.glideLeft = 0 then o.inc else if o.glideLeft = 1 then o.glideTarget else fadd o.inc o.glideDelta }

/-- R251, R252, R257, R258: the frequency that a design applies: clamp(f, 1.0e-3, 0.499 * SR). -/
def Sys2Proof.Claims.clampedHz (c : EngineConfig binary32) (f : F32) : F32 :=
  fclamp f (fratio 1 1000) (fmul (fratio 499 1000) (fnat c.sampleRate))

/-- R251, R252: the pole exp(-2 * π * fc / SR) of both one-pole designs. -/
def Sys2Proof.Claims.pole (c : EngineConfig binary32) (f : F32) : F32 :=
  Config.exp (fdiv (fmul (fmul (fneg (fnat 2)) fpi) (Sys2Proof.Claims.clampedHz c f)) (fnat c.sampleRate))

/-- R258: alpha, from a Q or from a bandwidth in octaves. -/
def Sys2Proof.Claims.alpha (w0 sn : F32) : FilterWidth binary32 → F32
  | .q Q => fdiv sn (fmul (fnat 2) Q)
  | .octaves bw => fmul sn (Config.sinh (fdiv (fmul (fmul (fdiv (Config.log (fnat 2)) (fnat 2)) bw) w0) sn))

/-- R259 to R269: the raw values B0, B1, B2, A0, A1, A2 of a design, from w0, cs = cos(w0) and sn = sin(w0). The Moorer
designs are another statement's (MoorerDesignsBranchAndGuard). -/
def Sys2Proof.Claims.raw (w0 : F32) : BiquadDesign binary32 → Option (Config.BiquadRaw binary32) :=
  let cs := Config.cos w0
  let sn := Config.sin w0
  let one : F32 := fnat 1
  let two : F32 := fnat 2
  let K := Config.tan (fdiv w0 two)
  let al := Sys2Proof.Claims.alpha w0 sn
  let A : F32 → F32 := fun gainDb => Config.pow (fnat 10) (fdiv gainDb (fnat 40))
  let A1 := fmul (fneg two) cs
  fun
  | .lowPass12 w => some ⟨fdiv (fsub one cs) two, fsub one cs, fdiv (fsub one cs) two, fadd one (al w), A1, fsub one (al w)⟩
  | .highPass12 w =>
    some ⟨fdiv (fadd one cs) two, fneg (fadd one cs), fdiv (fadd one cs) two, fadd one (al w), A1, fsub one (al w)⟩
  | .lowPass6 => some ⟨K, K, fzero, fadd one K, fsub K one, fzero⟩
  | .highPass6 => some ⟨one, fneg one, fzero, fadd one K, fsub K one, fzero⟩
  | .bandPassSkirt w => some ⟨fdiv sn two, fzero, fdiv (fneg sn) two, fadd one (al w), A1, fsub one (al w)⟩
  | .bandPassPeak w => some ⟨al w, fzero, fneg (al w), fadd one (al w), A1, fsub one (al w)⟩
  | .notch w => some ⟨one, A1, one, fadd one (al w), A1, fsub one (al w)⟩
  | .allPass w => some ⟨fsub one (al w), A1, fadd one (al w), fadd one (al w), A1, fsub one (al w)⟩
  | .peaking w g => some ⟨fadd one (fmul (al w) (A g)), A1, fsub one (fmul (al w) (A g)),
      fadd one (fdiv (al w) (A g)), A1, fsub one (fdiv (al w) (A g))⟩
  | .lowShelf w g =>
    let up := fadd (A g) one
    let dn := fsub (A g) one
    let r := fmul (fmul two (fsqrt (A g))) (al w)
    some ⟨fmul (A g) (fadd (fsub up (fmul dn cs)) r), fmul (fmul two (A g)) (fsub dn (fmul up cs)),
      fmul (A g) (fsub (fsub up (fmul dn cs)) r), fadd (fadd up (fmul dn cs)) r,
      fmul (fneg two) (fadd dn (fmul up cs)), fsub (fadd up (fmul dn cs)) r⟩
  | .highShelf w g =>
    let up := fadd (A g) one
    let dn := fsub (A g) one
    let r := fmul (fmul two (fsqrt (A g))) (al w)
    some ⟨fmul (A g) (fadd (fadd up (fmul dn cs)) r), fmul (fmul (fneg two) (A g)) (fadd dn (fmul up cs)),
      fmul (A g) (fsub (fadd up (fmul dn cs)) r), fadd (fsub up (fmul dn cs)) r,
      fmul two (fsub dn (fmul up cs)), fsub (fsub up (fmul dn cs)) r⟩
  | .moorerPresence _ _ => none
  | .moorerLowShelf _ _ => none
  | .moorerHighShelf _ _ => none

/-! ## Encoding and decoding (30_encoding.md, 40_decoder.md) -/

/-- R110, R112, R113: decoding the encoding of any instruction, at every operand value, gives it back
with the bytes that follow it. -/
def Obligations.DecodeAfterEncodeGivesTheInstruction : Prop :=
  ∀ (i : Instr) (rest : List U8), decode (encode i ++ rest) = .ok (i, rest)

/-- R110, R112, R115: what is decoded is the encoding that stands there, but for an unassigned code,
which stands for a `Nop`. -/
def Obligations.DecodedBytesAreAnEncoding : Prop :=
  ∀ (bs : List U8) (i : Instr) (rest : List U8), decode bs = .ok (i, rest) →
    encode i ++ rest = bs ∨ (i = .nop ∧ ∃ c : U8, c ≠ 0 ∧ arity c = 0 ∧ bs = c :: rest)

/-- R115: every code of 1..19, 26..39, 50..59 and 61..255 has arity 0 and decodes to `Nop`, consuming one
byte; the bytes after it are decoded as further opcodes; and it traps nothing. -/
def Obligations.UnassignedCodesAreOneByteNops : Prop :=
  ∀ (c : U8) (tl : List U8),
    ((1 ≤ c.toNat ∧ c.toNat ≤ 19) ∨ (26 ≤ c.toNat ∧ c.toNat ≤ 39) ∨ (50 ≤ c.toNat ∧ c.toNat ≤ 59) ∨
      61 ≤ c.toNat) →
    arity c = 0 ∧ decode (c :: tl) = .ok (.nop, tl) ∧ decodeStream (c :: tl) = .nop :: decodeStream tl ∧
    ∀ s : State, exec .nop s = .next s

/-- R114: the arity is 4 for the listed codes of format U or F and 0 for every other code; the length of an
instruction is 1 + arity of its opcode byte, whatever follows. -/
def Obligations.LengthFollowsFromTheOpcodeByte : Prop :=
  ∀ (c : U8) (tl : List U8),
    arity c = (if c.toNat ∈ [20, 21, 22, 23, 24, 25, 40, 41, 42, 43, 44, 45, 46, 47, 48, 49, 60] then 4 else 0) ∧
    (arity c ≤ tl.length → ∃ i, decode (c :: tl) = .ok (i, tl.drop (arity c))) ∧
    (tl.length < arity c → decode (c :: tl) = .error (.truncated c))

/-- V-ENC-2, R118, R119, R124: words written out from the spec's encodings decode to what they stand for. -/
def Obligations.WordsOfTheSpecDecode : Prop :=
  decode [0x28, 0x00, 0x00, 0xDC, 0x43] = .ok (.setCutoff 0x43DC0000#32, []) ∧
  decode [0x15, 0x01, 0x00, 0x00, 0x00] = .ok (.setRunning 1#32, []) ∧
  decode [0x16, 0x2D, 0x15, 0x01, 0x00] = .ok (.setStep 0x0001152D#32, []) ∧
  decode [0x17, 0x03, 0x00, 0x00, 0x01] = .ok (.setPatternLength 0x01000003#32, []) ∧
  decode [0x31, 0x00, 0x00, 0x0C, 0x43] = .ok (.setTempo 0x430C0000#32, []) ∧
  decode [0x19, 0x3A, 0x11, 0x00, 0x00] = .ok (.setDelayLength 4410#32, []) ∧
  decode [0x3C, 0x05, 0x00, 0x00, 0x00] = .ok (.stepChanged 5#32, []) ∧
  decode [0x00] = .ok (.nop, [])

/-- R142, R144, E3: a stream of whole instructions decodes to them, and a truncated last instruction is
dropped with nothing else lost. -/
def Obligations.TruncatedTailIsDropped : Prop :=
  ∀ (is : List Instr) (c : U8) (tl : List U8),
    decodeStream (is.flatMap encode) = is ∧
    (tl.length < arity c → decodeStream (is.flatMap encode ++ c :: tl) = is)

/-! ## The decode phase and the transaction (40_decoder.md) -/

/-- R142, R143: when the bytes before the cursor at `pos` decode to `i`, the step is `exec i` on the state
whose read position has moved past the instruction's bytes. -/
def Obligations.StepRunsTheDecodedInstruction : Prop :=
  ∀ (s : State) (pos : Nat) (i : Instr) (rest : List U8), s.stage = .decode pos →
    decode (bytesBeforeCursor s pos) = .ok (i, rest) →
    step s = exec i { s with stage := .decode (pos + i.size) } ∧
      (bytesBeforeCursor s pos).length = i.size + rest.length

/-- R22, R142, R144: when the stream is exhausted or its last instruction is truncated, the phase ends: the
cursor is 0, sample 0 is next, and nothing else changes, the log and the bytes of CMD among it. -/
def Obligations.DecodePhaseEndsWithoutError : Prop :=
  ∀ (s : State) (pos : Nat) (e : DecodeStop), s.stage = .decode pos →
    decode (bytesBeforeCursor s pos) = .error e →
    step s = .next { s with stage := .render 0, cursor := 0 }

/-- R140, R143, R145, R146, R482: the steps of one `process` call add up to the transaction, for every block length
of at least 1: after at most 1 + CMD_CAP + 1 + BLOCK_LEN steps the engine is idle in the state that decoding the
whole stream, applying it in order, draining and rendering one block gives; and the call has returned 0. -/
def Obligations.StepsOfACallAddUpToProcess : Prop :=
  ∀ (s : State) (v : U32) (rest : List HostCall), s.stage = .idle → s.host = .process v :: rest →
    1 ≤ s.config.blockLen →
    ∃ (n : Nat) (t : State), n ≤ 1 + s.config.cmdCap + 1 + s.config.blockLen ∧
      Sys2Proof.core.run n s = .next t ∧ process v { s with host := rest } = .next t ∧
      t.stage = .idle ∧ t.host = rest ∧ t.returned = some 0#32 ∧ t.cursor = 0

/-- R431, R434, R445: a step stops only where the construction of the engine fails, which is a fault and leaves no
engine; a construction that does not fail builds the whole construction state (R461); in every other state the step
answers a next one; and "The engine does nothing between host calls, and its state persists unchanged between them".
(That the environment's resources stand in `stage` is the model's choice, log 14.) -/
def Obligations.OnlyAFailedConstructionStops : Prop :=
  ∀ s : State,
    (s.stage = .constructing false → step s = .fault .constructionFailed) ∧
    (s.stage = .constructing true → step s = .next { State.construct s.config with host := s.host }) ∧
    (s.stage ≠ .constructing false → ∃ t : State, step s = .next t) ∧
    (s.stage = .idle → s.host = [] → step s = .next s)

/-- R140, R141: `process(validLength)` starts by clamping the cursor, emptying the notification stream and
entering the decode phase at offset 0. (`returned` is the model's own field, log 13.) -/
def Obligations.ProcessStartsAtOffsetZero : Prop :=
  ∀ (s : State) (v : U32) (rest : List HostCall), s.stage = .idle → s.host = .process v :: rest →
    ∃ t : State, step s = .next t ∧ t.stage = .decode 0 ∧ t.cursor = min v.toNat s.config.cmdCap ∧
      t.notifyLen = 0 ∧
      { t with stage := s.stage, cursor := s.cursor, notifyLen := s.notifyLen, returned := s.returned,
               host := s.host } = s

/-- R462: `initialize()` sets `sampleCount` and `counter` to 0 and changes nothing else; the next sample is a
control tick, and a running sequencer then reaches its next step boundary `stepLength` samples later. (`host` is the
model's own field, log 2.) -/
def Obligations.InitializeRestartsTheCounters : Prop :=
  ∀ (s : State) (rest : List HostCall), s.stage = .idle → s.host = .callInitialize :: rest →
    ∃ t : State, step s = .next t ∧
      t = { s with host := rest, sampleCount := 0#64, seq := { s.seq with counter := 0#32 } } ∧
      isControlTick t = true ∧
      (s.seq.running = true → 1 ≤ s.seq.stepLength.toNat → ∀ tempo : F32,
        (∀ n, n < s.seq.stepLength.toNat → (seqRun s.config tempo n t.seq).2 = []) ∧
        (seqRun s.config tempo s.seq.stepLength.toNat t.seq).2.length = 1)

/-- R58, R99: a host write between calls puts its byte at its offset of CMD and changes nothing else. An offset
outside 0 .. CMD_CAP−1, which is none of the host's moves, changes nothing (the model's choice, log 2). -/
def Obligations.HostWriteReachesCommandBuffer : Prop :=
  ∀ (s : State) (off : Nat) (b : U8) (rest : List HostCall), s.stage = .idle → s.cmd.wf →
    s.host = .writeCmd off b :: rest →
    ∃ t : State, step s = .next t ∧ (off < s.config.cmdCap → memRead t.cmd off = b) ∧
      (∀ a, a ≠ off ∨ s.config.cmdCap ≤ off → memRead t.cmd a = memRead s.cmd a) ∧
      { t with cmd := s.cmd, host := s.host } = s

/-- R445: "The engine does nothing between host calls, and its state persists unchanged between them." -/
def Obligations.IdleEngineKeepsItsState : Prop :=
  ∀ s : State, s.stage = .idle → s.host = [] → step s = .next s

/-! ## Reset and invariants -/

/-- R7, R461: every row of the construction table but `pos`, which is not present, at every choice of the
implementation parameters. The machine after reset is the engine constructed at the values of R7's decision column,
REAL values being the nearest to the decimals, with the two construction values that the table works out for them. -/
def Obligations.ConstructionStateIsAsListed : Prop :=
  (∀ c : EngineConfig binary32, let s := State.construct c
  s.config = c ∧ (∀ pos, s.stage ≠ .decode pos) ∧ s.cursor = 0 ∧
  s.params.cutoff = fratio 500 1 ∧ s.params.resonance = fratio 1 2 ∧ s.params.envMod = fratio 1 2 ∧
  s.params.decay = fratio 300 1 ∧ s.params.accentDepth = fratio 1 2 ∧ s.params.waveform.val = 0 ∧
  s.params.distShape = fnat 0 ∧ s.params.distAmount = fnat 0 ∧
  s.params.delaySend = fnat 0 ∧ s.params.delayFeedback = fnat 0 ∧ s.params.delayLength = c.sampleRate / 4 ∧
  s.params.tempo = fratio 120 1 ∧
  s.seq.running = false ∧ s.seq.counter = 0#32 ∧ s.seq.position.val = 0 ∧
  s.seq.stepLength = Sys2Proof.Claims.stepLength c (fratio 120 1) ∧
  s.seq.currentPattern = 0 ∧ s.seq.nextPattern = 0 ∧ s.seq.patterns.length = c.numPatterns ∧
  (∀ p ∈ s.seq.patterns, p.length.val = 16 ∧
    ∀ i : Fin Config.maxSteps, p.steps[i] = ⟨0#8, false, false, false, false, false⟩) ∧
  s.osc.phase = fnat 0 ∧ s.osc.inc = fnat 0 ∧ s.osc.segNote.val = 0 ∧ s.osc.segWave.val = 0 ∧
  s.osc.glideLeft = 0 ∧ s.osc.glideDelta = fnat 0 ∧ s.osc.glideTarget = fnat 0 ∧
  s.hp1 = designOnePoleHP c onePoleZero c.hp1Hz ∧ s.ap = designOnePoleAP c onePoleZero c.apHz ∧
  s.hp2 = designOnePoleHP c onePoleZero c.hp2Hz ∧
  s.notch = designBiquad c biquadZero (.notch (.octaves c.notchBw)) c.notchHz ∧
  s.declick = designBiquad c biquadZero (.lowPass12 (.q c.declickQ)) c.declickHz ∧
  s.ladder = Sys2Proof.Claims.redesigned c ⟨fnat 0, fnat 0, fnat 0, fnat 0, fnat 0, fnat 0, fnat 0, fnat 0,
    designOnePoleHP c onePoleZero c.fbHpHz⟩ (fratio 500 1) (fratio 1 2) ∧
  s.sweptCutoff = fratio 500 1 ∧ s.ampEnv = fnat 0 ∧ s.filtEnv = fnat 0 ∧
  s.ampMul = Sys2Proof.Claims.multiplier c false (fratio 300 1) ∧ s.filtMul = s.ampMul ∧ s.accentActive = false ∧
  s.sampleCount = 0#64 ∧ (∀ a, memRead s.delayBuf a = fnat 0) ∧ s.delayPos = 0 ∧
  (∀ a, memRead s.cmd a = 0#8) ∧ (∀ i, readSample s.outL i = fnat 0) ∧ (∀ i, readSample s.outR i = fnat 0) ∧
  (∀ a, memRead s.notify a = 0#8) ∧ s.notifyLen = 0 ∧ s.log = []) ∧
  State.reset = State.construct decidedConfig ∧
  (let c := decidedConfig
   c.sampleRate = 44100 ∧ c.tableLen = 2048 ∧ c.blockLen = 128 ∧ c.cmdCap = 1024 ∧ c.notifyCap = 5 * c.blockLen ∧
   c.numPatterns = 16 ∧ delayCap c = 88200 ∧ c.glideTicks = 1 ∧ c.denormalBias = fratio 1 (10 ^ 18) ∧
   c.fbHpHz = fratio 150 1 ∧ c.hp1Hz = fratio 44486 1000 ∧ c.apHz = fratio 14008 1000 ∧
   c.hp2Hz = fratio 24167 1000 ∧ c.notchHz = fratio 75164 10000 ∧ c.notchBw = fratio 47 10 ∧
   c.declickHz = fratio 200 1 ∧ c.declickQ = fdiv (fnat 1) (fsqrt (fnat 2)) ∧ c.fMax = fratio 20000 1 ∧
   c.envModOct = fratio 4 1 ∧ c.accentModOct = fratio 2 1 ∧ c.accentDecayMs = fratio 200 1 ∧
   c.moorerEps = fratio 1 100000) ∧
  State.reset.seq.stepLength = 5512#32 ∧ State.reset.params.delayLength = 11025

/-- R24, R41, R461: the construction state is legal ("Every state element has a legal value after
construction", R464), at every legal choice of the implementation parameters; the decided ones are legal. -/
def Obligations.ConstructionStateIsLegal : Prop :=
  ConfigLegal decidedConfig ∧ ∀ c : EngineConfig binary32, ConfigLegal c → (State.construct c).Legal

/-- R24, R39, R41, R59, R92, R176, R394: every step from a legal state leads to a legal state: the registers
keep their ranges, the memories their canonical form and bounds, the two outputs stay equal, and no notification
is ever lost where a block has room for one a sample. -/
def Obligations.StepsKeepTheStateLegal : Prop :=
  ∀ s t : State, s.Legal → step s = .next t → t.Legal

/-- R8: "An implementation parameter is a constant of one engine instance. No instruction changes it, and neither
does `initialize()`", nor any other step. -/
def Obligations.ParametersOfTheEngineNeverChange : Prop :=
  ∀ s t : State, step s = .next t → t.config = s.config

/-! ## Instructions: the decoder and sequencer families -/

/-- R148, R149: `Nop` and a consumed `StepChanged` change no state. -/
def Obligations.NopAndStepChangedChangeNothing : Prop :=
  ∀ (u : U32) (s : State), exec .nop s = .next s ∧ exec (.stepChanged u) s = .next s

/-- R180, R171: stop; start of a running sequencer; start of a stopped one, whose step length is that of the tempo. -/
def Obligations.SetRunningStartsAndStops : Prop :=
  ∀ (u : U32) (s : State),
    (u = 0#32 → exec (.setRunning u) s = .next { s with seq := { s.seq with running := false } }) ∧
    (u ≠ 0#32 → s.seq.running = true → exec (.setRunning u) s = .next s) ∧
    (u ≠ 0#32 → s.seq.running = false → ∃ p : Fin Config.maxSteps,
      p.val = (s.seq.patterns.getD s.seq.currentPattern emptyPattern).length.val - 1 ∧
      exec (.setRunning u) s = .next { s with seq := { s.seq with
        running := true
        stepLength := Sys2Proof.Claims.stepLength s.config s.params.tempo
        counter := Sys2Proof.Claims.stepLength s.config s.params.tempo - 1#32
        position := p } })

/-- R180, first corner case: after a start the very first advance emits step 0 of the queued pattern. -/
def Obligations.FirstSampleAfterStartEmitsStepZero : Prop :=
  ∀ (u : U32) (s : State), s.seq.Legal s.config → u ≠ 0#32 → s.seq.running = false →
    ∃ t : State, exec (.setRunning u) s = .next t ∧
      ∃ q : Sequencer, seqAdvance t.config t.params.tempo t.seq =
          (q, some (⟨0, by decide⟩, (s.seq.patterns.getD s.seq.nextPattern emptyPattern).steps[0])) ∧
        q.position.val = 0 ∧ q.counter = 0#32 ∧ q.currentPattern = s.seq.nextPattern

/-- R181: a non-finite or non-positive tempo is ignored; else `tempo` is the smaller of the operand and 1.0e6,
and nothing else changes, `stepLength` among it. -/
def Obligations.SetTempoStoresAPositiveTempo : Prop :=
  ∀ (v : F32) (s : State),
    (finite v = false ∨ fle v (fnat 0) = true → exec (.setTempo v) s = .next s) ∧
    (finite v = true → flt (fnat 0) v = true →
      exec (.setTempo v) s = .next { s with params := { s.params with
        tempo := if fle v (fnat 1000000) then v else fnat 1000000 } })

/-- R118, R182, R433: the packed operand's fields; the one slot replaced wholesale, the reserved bits `ra` and
`rb` ignored, every other slot and every length kept; a bad pattern index only logged. The bank has NUM_PATTERNS
patterns (R41; kept by every step, StepsKeepTheStateLegal). -/
def Obligations.SetStepReplacesOneSlot : Prop :=
  ∀ (pat : BitVec 8) (rb slot : BitVec 4) (ra : BitVec 3) (up down sl acc en : Bool) (pitch : BitVec 8) (s : State),
    let u : U32 := pat ++ rb ++ slot ++ ra ++ BitVec.ofBool up ++ BitVec.ofBool down ++ BitVec.ofBool sl ++
      BitVec.ofBool acc ++ BitVec.ofBool en ++ pitch
    (pat.toNat < s.config.numPatterns → s.seq.patterns.length = s.config.numPatterns → ∃ ps : List Pattern,
      exec (.setStep u) s = .next { s with seq := { s.seq with patterns := ps } } ∧
      ps.length = s.seq.patterns.length ∧
      ∀ p : Nat, (ps.getD p emptyPattern).length = (s.seq.patterns.getD p emptyPattern).length ∧
        ∀ i : Fin Config.maxSteps, (ps.getD p emptyPattern).steps[i] =
          if p = pat.toNat ∧ i.val = slot.toNat then ⟨pitch, en, acc, sl, down, up⟩
          else (s.seq.patterns.getD p emptyPattern).steps[i]) ∧
    (s.config.numPatterns ≤ pat.toNat →
      exec (.setStep u) s = .next { s with log := s.log ++ [⟨.badPatternIndex, u⟩] })

/-- R119, R183, R433: one pattern's length set, the reserved bits ignored, every step kept; a bad index or
length only logged. -/
def Obligations.SetPatternLengthSetsOneLength : Prop :=
  ∀ (pat : BitVec 8) (reserved : BitVec 16) (len : BitVec 8) (s : State),
    let u : U32 := pat ++ reserved ++ len
    (pat.toNat < s.config.numPatterns → s.seq.patterns.length = s.config.numPatterns → 1 ≤ len.toNat →
      len.toNat ≤ 16 → ∃ ps : List Pattern,
      exec (.setPatternLength u) s = .next { s with seq := { s.seq with patterns := ps } } ∧
      ps.length = s.seq.patterns.length ∧
      ∀ p : Nat, (ps.getD p emptyPattern).steps = (s.seq.patterns.getD p emptyPattern).steps ∧
        (ps.getD p emptyPattern).length.val =
          if p = pat.toNat then len.toNat else (s.seq.patterns.getD p emptyPattern).length.val) ∧
    (s.config.numPatterns ≤ pat.toNat ∨ len.toNat = 0 ∨ 16 < len.toNat →
      exec (.setPatternLength u) s = .next { s with log := s.log ++ [⟨.badPatternLength, u⟩] })

/-- R184, R230, R433: a legal pattern index is queued and `currentPattern` kept; a legal waveform index is stored;
nothing else changes; another index is only logged. -/
def Obligations.IndexControlsStoreALegalIndex : Prop :=
  ∀ (u : U32) (s : State),
    (u.toNat < s.config.numPatterns →
      exec (.setNextPattern u) s = .next { s with seq := { s.seq with nextPattern := u.toNat } }) ∧
    (s.config.numPatterns ≤ u.toNat →
      exec (.setNextPattern u) s = .next { s with log := s.log ++ [⟨.badPatternIndex, u⟩] }) ∧
    (∀ h : u.toNat < Config.numWaves,
      exec (.setWaveform u) s = .next { s with params := { s.params with waveform := ⟨u.toNat, h⟩ } }) ∧
    (2 ≤ u.toNat → exec (.setWaveform u) s = .next { s with log := s.log ++ [⟨.badWaveform, u⟩] })

/-! ## Instructions: the ladder, saturator, delay and voice families -/

/-- R25: the register value that a finite operand leaves: the operand in the range, an end of the range
outside it. -/
def Sys2Proof.Claims.Clamped (lo hi v r : F32) : Prop :=
  (fle lo v = true → fle v hi = true → r = v) ∧ (flt v lo = true → r = lo) ∧ (flt hi v = true → r = hi)

/-- What an instruction that only writes one sanitised parameter register does: a non-finite operand changes
nothing; a finite one leaves the clamped value, in the range, and changes nothing else. -/
def Sys2Proof.Claims.WritesClamped (i : F32 → Instr) (write : F32 → Params binary32 → Params binary32) (lo hi : F32) : Prop :=
  ∀ (v : F32) (s : State),
    (finite v = false → exec (i v) s = .next s) ∧
    (finite v = true → ∃ r : F32, exec (i v) s = .next { s with params := write r s.params } ∧
      inRange lo hi r ∧ Sys2Proof.Claims.Clamped lo hi v r)

/-- The same for a control that recomputes the ladder, to a range whose upper end may be a parameter of the engine:
the swept cutoff (R401) and the coefficients `b0`, `g` and `k` (R301 to R303) are recomputed from the new registers and
the current envelope; a non-finite operand recomputes nothing. -/
def Sys2Proof.Claims.WritesClampedAndRedesigns (i : F32 → Instr) (write : F32 → Params binary32 → Params binary32) (lo : F32)
    (hi : EngineConfig binary32 → F32) : Prop :=
  ∀ (v : F32) (s : State),
    (finite v = false → exec (i v) s = .next s) ∧
    (finite v = true → finite (hi s.config) = true → fle lo (hi s.config) = true → ∃ r : F32,
      let p := write r s.params
      let fc := Sys2Proof.Claims.swept s.config p s.accentActive s.filtEnv
      exec (i v) s = .next { s with
        params := p
        sweptCutoff := fc
        ladder := Sys2Proof.Claims.redesigned s.config s.ladder fc p.resonance } ∧
      inRange lo (hi s.config) r ∧ Sys2Proof.Claims.Clamped lo (hi s.config) v r)

/-- R320, R321, R322 with R25, R304: SetCutoff clamps to [1, F_MAX], SetResonance and SetEnvMod to [0, 1]; each
recomputes the ladder at once. -/
def Obligations.LadderControlsClampAndRedesign : Prop :=
  Sys2Proof.Claims.WritesClampedAndRedesigns .setCutoff (fun r p => { p with cutoff := r }) (fnat 1) (·.fMax) ∧
  Sys2Proof.Claims.WritesClampedAndRedesigns .setResonance (fun r p => { p with resonance := r }) (fnat 0)
    (fun _ => fnat 1) ∧
  Sys2Proof.Claims.WritesClampedAndRedesigns .setEnvMod (fun r p => { p with envMod := r }) (fnat 0) (fun _ => fnat 1)

/-- R350 to R353, R410, R411 with R25: SetDecay clamps to [1, 60000] and leaves the multipliers of the sounding
note; SetAccent, the distortion controls and the delay levels clamp to [0, 1]. -/
def Obligations.LevelControlsClamp : Prop :=
  Sys2Proof.Claims.WritesClamped .setDecay (fun r p => { p with decay := r }) (fnat 1) (fnat 60000) ∧
  Sys2Proof.Claims.WritesClamped .setAccent (fun r p => { p with accentDepth := r }) (fnat 0) (fnat 1) ∧
  Sys2Proof.Claims.WritesClamped .setDistortionShape (fun r p => { p with distShape := r }) (fnat 0) (fnat 1) ∧
  Sys2Proof.Claims.WritesClamped .setDistortionThreshold (fun r p => { p with distAmount := r }) (fnat 0) (fnat 1) ∧
  Sys2Proof.Claims.WritesClamped .setDelaySend (fun r p => { p with delaySend := r }) (fnat 0) (fnat 1) ∧
  Sys2Proof.Claims.WritesClamped .setDelayFeedback (fun r p => { p with delayFeedback := r }) (fnat 0) (fnat 1)

/-- R354: format U, code 0x19; `delayLength <- clamp(u, 1, DELAY_CAP)` and nothing else: 0 gives 1, values above
DELAY_CAP give DELAY_CAP, the buffer and `delayPos` are unchanged. -/
def Obligations.SetDelayLengthClamps : Prop :=
  ∀ (u : U32) (s : State), encode (.setDelayLength u) = 0x19#8 :: bytesOf32 u ∧ (1 ≤ delayCap s.config → ∃ n : Nat,
    exec (.setDelayLength u) s = .next { s with params := { s.params with delayLength := n } } ∧
    n = if u.toNat = 0 then 1 else if delayCap s.config < u.toNat then delayCap s.config else u.toNat)

/-! ## Frames over all instructions and all steps -/

/-- R8, R58, R90, R143, R151, R304: no instruction writes an implementation parameter, the decode position, the
cursor, a byte of a region that the host sees (CMD, OUTL, OUTR, NOTIFY), `notifyLen`, the delay RAM or its position,
the oscillator, a delay register of a filter or any coefficient but the ladder's `b0`, `g` and `k`, an envelope, a
multiplier, the accent or `sampleCount`. (SetRunning does write the sequencer's `counter`, R180, and SetStep and
SetPatternLength the patterns.) -/
def Obligations.InstructionsWriteOnlyRegistersAndLog : Prop :=
  ∀ (i : Instr) (s t : State), exec i s = .next t →
    t.config = s.config ∧ t.stage = s.stage ∧ t.cursor = s.cursor ∧ t.returned = s.returned ∧ t.host = s.host ∧
    (∀ a, memRead t.cmd a = memRead s.cmd a) ∧ (∀ a, memRead t.outL a = memRead s.outL a) ∧
    (∀ a, memRead t.outR a = memRead s.outR a) ∧ (∀ a, memRead t.notify a = memRead s.notify a) ∧
    t.notifyLen = s.notifyLen ∧ (∀ a, memRead t.delayBuf a = memRead s.delayBuf a) ∧ t.delayPos = s.delayPos ∧
    t.osc = s.osc ∧ t.hp1 = s.hp1 ∧ t.ap = s.ap ∧ t.hp2 = s.hp2 ∧ t.notch = s.notch ∧ t.declick = s.declick ∧
    t.ladder = { s.ladder with b0 := t.ladder.b0, g := t.ladder.g, k := t.ladder.k } ∧
    t.ampEnv = s.ampEnv ∧ t.filtEnv = s.filtEnv ∧ t.ampMul = s.ampMul ∧ t.filtMul = s.filtMul ∧
    t.accentActive = s.accentActive ∧ t.sampleCount = s.sampleCount

/-- R61: the logging channel is append-only: every step of a constructed engine keeps the records that were there. -/
def Obligations.LogIsAppendOnly : Prop :=
  ∀ s t : State, s.constructed = true → step s = .next t → s.log <+: t.log

/-- R58, R97, R99, R478: the engine never writes CMD; only a host write between calls changes a byte of it, and the
byte that changes is the one written. -/
def Obligations.OnlyTheHostWritesCommands : Prop :=
  ∀ s t : State, s.constructed = true → step s = .next t → ∀ a, memRead t.cmd a ≠ memRead s.cmd a →
    s.stage = .idle ∧ a < s.config.cmdCap ∧ ∃ b rest, s.host = .writeCmd a b :: rest

/-- R24, R41: the voice parameter registers, the pattern bank, `nextPattern` and `running` are "mutated only
through decoded instructions": no host move and no sample of a constructed engine changes them. -/
def Obligations.ParametersChangeOnlyByInstructions : Prop :=
  ∀ s t : State, s.constructed = true → (∀ pos, s.stage ≠ .decode pos) → step s = .next t →
    t.params = s.params ∧ t.seq.patterns = s.seq.patterns ∧ t.seq.nextPattern = s.seq.nextPattern ∧
    t.seq.running = s.seq.running

/-- R59, R84, R147, R213, R345, R390, R400, R403: sample `i` of a block stands at element `i` of both outputs, and no
other element changes. The sample is what R390 computes after the sequencer's part of it (`voiceSequence`, R391): the
interpolated table lookup of R213, through the high-pass, the ladder (with the coefficients of a control tick if this
sample is one), the all-pass, the high-pass and the notch, times the declicker's response to the gain of R403,
saturated, plus the delay's tap. The filters keep the registers that these renders leave, and the delay RAM takes at
`delayPos` what R345 stores. -/
def Obligations.SampleIsStoredInBothOutputs : Prop :=
  ∀ (s : State) (i : Nat), s.stage = .render i → s.outL.wf → s.outR.wf → s.delayBuf.wf →
    let c := s.config
    let p := s.params
    let v := voiceSequence s
    let k := (floorU32 v.osc.phase).toNat % c.tableLen
    let a := wavetable c v.osc.segWave v.osc.segNote k
    let b := wavetable c v.osc.segWave v.osc.segNote ((k + 1) % c.tableLen)
    let tone := fadd a (fmul (fsub v.osc.phase (fnat k)) (fsub b a))
    let swept := Sys2Proof.Claims.swept c p v.accentActive (fmul v.filtEnv v.filtMul)
    let hp1 := onePoleRender c s.hp1 tone
    let ladder := ladderRender c
      (if s.sampleCount.toNat % 64 = 0 then Sys2Proof.Claims.redesigned c s.ladder swept p.resonance else s.ladder) hp1.2
    let ap := onePoleRender c s.ap ladder.2
    let hp2 := onePoleRender c s.hp2 ap.2
    let notch := biquadRender c s.notch hp2.2
    let env := fmul v.ampEnv v.ampMul
    let declick := biquadRender c s.declick
      (if v.accentActive then fmul env (fadd (fnat 1) p.accentDepth) else env)
    let z := saturate p.distAmount p.distShape (fmul notch.2 declick.2)
    let tap := memRead s.delayBuf s.delayPos
    ∃ t : State, step s = .next t ∧
      (readSample t.outL i = fadd z tap ∧ readSample t.outR i = fadd z tap ∧
        ∀ j, j ≠ i → readSample t.outL j = readSample s.outL j ∧ readSample t.outR j = readSample s.outR j) ∧
      (t.hp1 = hp1.1 ∧ t.ladder = ladder.1 ∧ t.ap = ap.1 ∧ t.hp2 = hp2.1 ∧ t.notch = notch.1 ∧
        t.declick = declick.1) ∧
      t.delayPos = (s.delayPos + 1) % p.delayLength ∧
      memRead t.delayBuf s.delayPos =
        fadd (fadd (fmul p.delaySend z) (fmul p.delayFeedback tap)) c.denormalBias ∧
      ∀ d, d ≠ s.delayPos → memRead t.delayBuf d = memRead s.delayBuf d

/-- R64, R81, R84, R89: between calls, at the platform's bases, the host reads the little-endian bytes of each output
sample; inside a call it reads nothing at all: "The host observes the regions only before the call and after its
return, never in between". -/
def Obligations.HostReadsSamplesLittleEndian : Prop :=
  ∀ (r : RegionBases) (s : State),
    (s.stage = .idle → disjointRegions s.config r = true → ∀ i k : Nat, i < s.config.blockLen → k < 4 →
      hostByte r s (r.outL + 4 * i + k) = some ((readSample s.outL i).extractLsb' (8 * k) 8) ∧
      hostByte r s (r.outR + 4 * i + k) = some ((readSample s.outR i).extractLsb' (8 * k) 8)) ∧
    (s.stage ≠ .idle → hostView s = none ∧ ∀ a, hostByte r s a = none)

/-! ## The sequencer (41_sequencer.md) -/

/-- R173: while `running` is false, an advance changes no state and returns none. -/
def Obligations.StoppedSequencerEmitsNothing : Prop :=
  ∀ (c : EngineConfig binary32) (tempo : F32) (q : Sequencer), q.running = false → seqAdvance c tempo q = (q, none)

/-- R174: no step of a constructed engine changes `currentPattern` but a sample at which the playing pattern wraps; it
then becomes `nextPattern`, at position 0. -/
def Obligations.PatternSwitchesOnlyAtItsLoop : Prop :=
  ∀ s t : State, s.constructed = true → step s = .next t → t.seq.currentPattern ≠ s.seq.currentPattern →
    (∃ i, s.stage = .render i) ∧ s.seq.running = true ∧ s.seq.stepLength.toNat ≤ s.seq.counter.toNat + 1 ∧
    (s.seq.patterns.getD s.seq.currentPattern emptyPattern).length.val ≤ s.seq.position.val + 1 ∧
    t.seq.currentPattern = s.seq.nextPattern ∧ t.seq.position.val = 0

/-- R170, R171, R172, R174, R175, R176: an advance of a running legal sequencer counts one sample; or, at a step
boundary, restarts the counter, takes the tempo's step length, moves to the next position or to position 0 of the
queued pattern, and emits that position with the step stored there, which lies below the pattern's length; nothing else
changes. -/
def Obligations.EmittedStepLiesInsideItsPattern : Prop :=
  ∀ (c : EngineConfig binary32) (tempo : F32) (q : Sequencer), q.Legal c → q.running = true →
    (q.counter.toNat + 1 < q.stepLength.toNat →
      seqAdvance c tempo q = ({ q with counter := q.counter + 1#32 }, none)) ∧
    (q.stepLength.toNat ≤ q.counter.toNat + 1 → ∃ (old new : Pattern) (p : Fin Config.maxSteps),
      let inside := q.position.val + 1 < old.length.val
      let current := if inside then q.currentPattern else q.nextPattern
      q.patterns[q.currentPattern]? = some old ∧ q.patterns[current]? = some new ∧
      p.val = (if inside then q.position.val + 1 else 0) ∧
      seqAdvance c tempo q =
        ({ q with
          counter := 0#32
          stepLength := Sys2Proof.Claims.stepLength c tempo
          position := p
          currentPattern := current }, some (p, new.steps[p])) ∧
      p.val < new.length.val ∧ new.length.val ≤ 16 ∧ 0 < (Sys2Proof.Claims.stepLength c tempo).toNat)

/-- R177, for every pattern length (the rule's is 16): with no switch queued and the tempo held, after
length × stepLengthOf(tempo) advances from counter 0 and position 0 the sequencer is back where it was, and exactly
`length` steps have been emitted, the last at position 0. The step in progress has the tempo's length, which the
rule leaves unsaid. -/
def Obligations.PatternReturnsAfterItsPeriod : Prop :=
  ∀ (c : EngineConfig binary32) (tempo : F32) (q : Sequencer), q.running = true → q.counter = 0#32 → q.position.val = 0 →
    q.nextPattern = q.currentPattern → q.stepLength = Sys2Proof.Claims.stepLength c tempo →
    let length := (q.patterns.getD q.currentPattern emptyPattern).length.val
    1 ≤ length →
    let r := seqRun c tempo (length * (Sys2Proof.Claims.stepLength c tempo).toNat) q
    r.1 = q ∧ r.2.length = length ∧ ∃ e, r.2.getLast? = some e ∧ e.1.val = 0

/-- R171, R175, R180: `stepLength` changes only at a step boundary of a running sequencer and at a start, and it
is then R171's expression of the tempo register. -/
def Obligations.StepLengthChangesAtBoundariesAndStart : Prop :=
  ∀ s t : State, s.constructed = true → step s = .next t → t.seq.stepLength ≠ s.seq.stepLength →
    t.seq.stepLength = Sys2Proof.Claims.stepLength s.config s.params.tempo ∧
    (((∃ i, s.stage = .render i) ∧ s.seq.running = true ∧ s.seq.stepLength.toNat ≤ s.seq.counter.toNat + 1) ∨
      (∃ pos u rest, s.stage = .decode pos ∧ decode (bytesBeforeCursor s pos) = .ok (.setRunning u, rest) ∧
        u ≠ 0#32 ∧ s.seq.running = false))

/-! ## The oscillator (42_oscillator.md) -/

/-- R210, R212, R216, R217: a slide keeps phase and increment; each of the GLIDE_TICKS control ticks after it keeps the
phase and counts down, every one but the last adds the same delta to the increment, the last puts the increment on
the target exactly, and a further tick changes nothing. -/
def Obligations.SlideEndsOnItsTarget : Prop :=
  ∀ (c : EngineConfig binary32) (w : Fin Config.numWaves) (p : F32) (o : Oscillator binary32), 1 ≤ c.glideTicks →
    let target := Sys2Proof.Claims.increment c p
    let after : Nat → Oscillator binary32 := fun k => oscUpdate^[k] (oscSlide c w p o)
    (after 0).inc = o.inc ∧ (∀ k, (after k).phase = o.phase) ∧
    (∀ k, k ≤ c.glideTicks → (after k).glideLeft = c.glideTicks - k) ∧
    (∀ k, k + 1 < c.glideTicks →
      (after (k + 1)).inc = fadd (after k).inc (fdiv (fsub target o.inc) (fnat c.glideTicks))) ∧
    (after c.glideTicks).inc = target ∧ after (c.glideTicks + 1) = after c.glideTicks

/-- R214: `advancePhase` changes the phase alone, as the rule's pseudocode says; and "After the call, 0 ≤ phase < L holds
for every finite inc ≥ 0", for a table length that is a power of two, as the decided one is (D4). -/
def Obligations.PhaseStaysInsideTheTable : Prop :=
  ∀ (c : EngineConfig binary32) (o : Oscillator binary32),
    advancePhase c o = { o with phase := Sys2Proof.Claims.advanced c o.phase o.inc } ∧
    ∀ k : Nat, c.tableLen = 2 ^ k → k < 32 → finite o.phase = true → fle fzero o.phase = true →
      flt o.phase (ftableLen c) = true → finite o.inc = true → fle fzero o.inc = true →
      fle fzero (advancePhase c o).phase = true ∧ flt (advancePhase c o).phase (ftableLen c) = true

/-- A finite binary64 value. -/
abbrev Sys2Proof.Claims.finite64 (a : F64) : Prop := a.toNat % 2 ^ 63 < 0x7FF0000000000000

/-- The natural number `h` is less than the exact value of a datum. -/
def Sys2Proof.Claims.below (h : Nat) : Machine.Num → Prop
  | .nan => False
  | .inf neg => neg = false
  | .fin neg m e => neg = false ∧ if 0 ≤ e then h < m * 2 ^ e.toNat else h * 2 ^ (-e).toNat < m

/-- The correctly rounded binary64 value of 2^x, for x the binary64 values of (n - 69)/12 at n = 0 .. 16. -/
def Sys2Proof.Claims.lowPowers : List F64 :=
  [0x3F9306FE0A31B715#64, 0x3F9428A2F98D728A#64, 0x3F955B8108F0EC5F#64, 0x3F96A09E667F3BCD#64,
    0x3F97F910D768CFAF#64, 0x3F9965FEA53D6E3E#64, 0x3F9AE89F995AD3AD#64, 0x3F9C823E074EC128#64,
    0x3F9E3437E7101345#64, 0x3FA0000000000000#64, 0x3FA0F38F92D97962#64, 0x3FA1F59AC3C7D6C1#64,
    0x3FA306FE0A31B715#64, 0x3FA428A2F98D728A#64, 0x3FA55B8108F0EC5F#64, 0x3FA6A09E667F3BCD#64,
    0x3FA7F910D768CFAF#64]

/-- A power function that is within one unit in the last place there. -/
def Sys2Proof.Claims.AccurateLowPowers (M : WaveMath) : Prop :=
  ∀ n : Nat, n ≤ 16 →
    let p := M.pow (fnat 2) (fdiv (fint (n - 69 : Int)) (fnat 12))
    let r := Sys2Proof.Claims.lowPowers.getD n 0#64
    p = r ∨ p = r + 1#64 ∨ p = r - 1#64

/-- R221, the first two properties, for every table of R220's rule, whatever functions it takes as sine and power
(R13 leaves these open, so the properties of them that are needed are named): if the sine of 0 is 0, the sigma
factors are finite and the peak is finite and not 0, every segment starts at 0; and if no entry of a group is an
infinity or a NaN and the peak is not 0, the group's greatest magnitude is 1. -/
def Obligations.TableStartsAtZeroWithUnitPeak : Prop :=
  ∀ (M : WaveMath) (c : EngineConfig binary32) (w n i : Nat), 1 ≤ c.tableLen → c.tableLen < 2 ^ 32 →
    let peak := groupPeak M c w Config.numNotes
    n < Config.numNotes → i < c.tableLen → Sys2Proof.Claims.finite64 peak → 0 < peak.toNat % 2 ^ 63 →
    (M.sin 0#64 = 0#64 →
      (∀ k, 1 ≤ k → k ≤ harmonicLimit M c n → Sys2Proof.Claims.finite64 (lanczosSigma M k (harmonicLimit M c n))) →
      tableEntry M c w n 0 = fnat 0) ∧
    ((∀ m j, m < Config.numNotes → j < c.tableLen → Sys2Proof.Claims.finite64 (waveRaw M c w m j)) →
      fle (fabs (tableEntry M c w n i)) (fnat 1) = true ∧
      ∃ m j, m < Config.numNotes ∧ j < c.tableLen ∧ fabs (tableEntry M c w m j) = fnat 1)

/-- R220 and the third property of R221, for every sine and power function. An entry of the table is the quotient,
rounded to REAL, of the sum of the harmonics k = 1 .. H in rising order, the odd ones alone for the square, by the peak
of the waveform group; `wavetable` is the table at the engine's own functions. That the sine is taken at (k·i) mod L, 2π
formed first and the sum taken in rising order is the model's choice (DEDUCED, log 9; 95_test_vectors.md section 0): for
an arbitrary sine R220's words do not say so. The limit H is the highest one that R220 admits: it lies below L/2, and
below SR/(2·f_n) as binary64 gives that quotient, which is "below SR/2" for k·f_n, in a segment of more than its
fundamental, and in one whose fundamental fits in a table of at least 4 entries; and the next harmonic, where it too lies
below L/2, is not below the quotient. (For an odd L, L/2 is its floor, the model's choice, log 28.) "With the decided
parameters, notes 0 .. 16 all reach the cap H = 1023 and have equal segments", if the power function is within one unit in
the last place of the correctly rounded 2^x at their seventeen exponents. -/
def Obligations.SegmentsAreBandLimited : Prop :=
  (∀ (c : EngineConfig binary32) (w : Fin Config.numWaves) (n : Fin Config.numNotes) (i : Nat),
    wavetable c w n i = tableEntry ⟨Config.sin, Config.pow⟩ c w n i) ∧
  (∀ (M : WaveMath) (c : EngineConfig binary32) (w n i : Nat),
    let H := harmonicLimit M c n
    let sigma : Nat → F64 := fun k =>
      let a := fdiv (fmul fpi (fnat k)) (fnat (H + 1))
      fdiv (M.sin a) a
    let angle : Nat → F64 := fun k => fdiv (fmul (fmul (fnat 2) fpi) (fnat (k * i % c.tableLen))) (fnat c.tableLen)
    let term : Nat → F64 := fun k => fdiv (fmul (sigma k) (M.sin (angle k))) (fnat k)
    let harmonics := (List.range' 1 H).filter fun k => w != 1 || k % 2 == 1
    tableEntry M c w n i = convert (fdiv ((harmonics.map term).foldl fadd (fnat 0)) (groupPeak M c w 128))) ∧
  (∀ (M : WaveMath) (c : EngineConfig binary32) (n : Nat),
    let H := harmonicLimit M c n
    let f := fmul (fnat 440) (M.pow (fnat 2) (fdiv (fint (n - 69 : Int)) (fnat 12)))
    let q := datum (fdiv (fnat c.sampleRate) (fmul (fnat 2) f))
    1 ≤ H ∧ (1 < H ∨ 4 ≤ c.tableLen → H < c.tableLen / 2) ∧
    (q ≠ .nan → 1 < H ∨ Sys2Proof.Claims.below 1 q → Sys2Proof.Claims.below H q) ∧
    (q ≠ .nan → H + 1 < c.tableLen / 2 → ¬ Sys2Proof.Claims.below (H + 1) q)) ∧
  (∀ M : WaveMath, Sys2Proof.Claims.AccurateLowPowers M → ∀ n, n ≤ 16 →
    harmonicLimit M decidedConfig n = 1023 ∧
    ∀ w i, tableEntry M decidedConfig w n i = tableEntry M decidedConfig w 0 i)

/-- R393: the target pitch is the step's pitch moved by 12 down and 12 up; both flags cancel. -/
def Obligations.OctaveFlagsMoveThePitchByTwelve : Prop :=
  ∀ st : Step, (targetPitch st : F32) =
    (match st.octaveDown, st.octaveUp with
      | false, true => fnat (st.pitch.toNat + 12)
      | true, false =>
        if 12 ≤ st.pitch.toNat then fnat (st.pitch.toNat - 12) else fneg (fnat (12 - st.pitch.toNat))
      | _, _ => fnat st.pitch.toNat)

/-! ## Filters, saturator and delay (43 to 45) -/

/-- R251, R252, R254, R257, R258 and R259 to R269: a one-pole design stores the coefficients of its rule and a biquad
design the normalised raw values of its rule, at the clamped frequency, and each writes no delay register; a non-finite
frequency keeps the instance, and a biquad design at a finite one leaves bypass off. (That bypass stays at a non-finite
one is the model's choice, log 26.) -/
def Obligations.DesignsKeepTheDelayRegisters : Prop :=
  (∀ (c : EngineConfig binary32) (F : OnePole binary32) (f : F32),
    (finite f = false → designOnePoleHP c F f = F ∧ designOnePoleAP c F f = F) ∧
    (finite f = true →
      let p := Sys2Proof.Claims.pole c f
      let half := fratio 1 2
      designOnePoleHP c F f =
        { F with b0 := fmul half (fadd (fnat 1) p), b1 := fmul (fneg half) (fadd (fnat 1) p), a1 := p } ∧
      designOnePoleAP c F f = { F with b0 := fneg p, b1 := fnat 1, a1 := p })) ∧
  (∀ (c : EngineConfig binary32) (F : Biquad binary32) (d : BiquadDesign binary32) (f : F32),
    (designBiquad c F d f).x1 = F.x1 ∧ (designBiquad c F d f).x2 = F.x2 ∧
    (designBiquad c F d f).y1 = F.y1 ∧ (designBiquad c F d f).y2 = F.y2 ∧
    (finite f = false → designBiquad c F d f = F) ∧
    (finite f = true → (designBiquad c F d f).bypass = false ∧
      let w0 := fdiv (fmul (fmul (fnat 2) fpi) (Sys2Proof.Claims.clampedHz c f)) (fnat c.sampleRate)
      ∀ r, Sys2Proof.Claims.raw w0 d = some r → designBiquad c F d f = { F with
        b0 := fdiv r.B0 r.A0, b1 := fdiv r.B1 r.A0, b2 := fdiv r.B2 r.A0
        a1 := fdiv r.A1 r.A0, a2 := fdiv r.A2 r.A0, bypass := false }))

/-- The biquad design that a Moorer design is. -/
def Sys2Proof.Claims.moorerBiquad (gainDb bw : F32) : Config.MoorerDesign → BiquadDesign binary32
  | .presence => .moorerPresence gainDb bw
  | .lowShelf => .moorerLowShelf gainDb bw
  | .highShelf => .moorerHighShelf gainDb bw

/-- R272, R273, R274: the presence's band edge is the other root where it exists and lies strictly between 0 and the
principal one, else the principal one; every division of a Moorer design whose denominator d has |d| ≤ MOORER_EPS
gives the fallback that the formula names; and the three designs of the bank store the normalised raw values that
their formulas make of that band edge and of those divisions. -/
def Obligations.MoorerDesignsBranchAndGuard : Prop :=
  ∀ (c : EngineConfig binary32) (d : Config.MoorerDesign) (gainDb bw f : F32) (F : Biquad binary32), finite f = true →
    let x : Config.MoorerInput binary32 := ⟨c.sampleRate, Sys2Proof.Claims.clampedHz c f, gainDb, bw⟩
    let principal := (Config.moorerRoots x).principal
    ∃ (edge : Option F32) (given : List F32),
      (d = .presence →
        ((Config.moorerRoots x).other = none → edge = some principal) ∧
        ∀ other, (Config.moorerRoots x).other = some other → edge =
          some (if flt (fnat 0) other = true ∧ flt other principal = true then other else principal)) ∧
      given.length = Config.moorerDivisions d ∧
      (∀ k, k < given.length →
        let q := Config.moorerDivision d x edge (given.take k)
        (fle (fabs q.denominator) c.moorerEps = true → given[k]? = some q.fallback) ∧
        (fle (fabs q.denominator) c.moorerEps = false → given[k]? = some q.value)) ∧
      let r := Config.moorerRaw d x edge given
      designBiquad c F (Sys2Proof.Claims.moorerBiquad gainDb bw d) f = { F with
        b0 := fdiv r.B0 r.A0, b1 := fdiv r.B1 r.A0, b2 := fdiv r.B2 r.A0
        a1 := fdiv r.A1 r.A0, a2 := fdiv r.A2 r.A0, bypass := false }

/-- R250, R255, R256, R305: the recursions of the one-pole section, of the biquad section and of the ladder: a render
returns its output, stores it with DENORMAL_BIAS and its input unchanged, and shifts the older registers; each ladder
stage reads the new value of the stage before it and the old value of the stage after it. -/
def Obligations.RendersFollowTheirRecursions : Prop :=
  ∀ c : EngineConfig binary32,
  (∀ (F : OnePole binary32) (x : F32),
    let y := fadd (fadd (fmul F.b0 x) (fmul F.b1 F.x1)) (fmul F.a1 F.y1)
    onePoleRender c F x = ({ F with x1 := x, y1 := fadd y c.denormalBias }, y)) ∧
  (∀ (F : Biquad binary32) (x : F32), F.bypass = false →
    let y := fsub (fsub (fadd (fadd (fmul F.b0 x) (fmul F.b1 F.x1)) (fmul F.b2 F.x2)) (fmul F.a1 F.y1))
      (fmul F.a2 F.y2)
    biquadRender c F x = ({ F with x1 := x, x2 := F.x1, y1 := fadd y c.denormalBias, y2 := F.y1 }, y)) ∧
  (∀ (ld : Ladder binary32) (x : F32),
    let fb := onePoleRender c ld.fbhp (fmul ld.k ld.y4)
    let y0 := fsub x fb.2
    let n1 := fadd ld.y1 (fmul (fmul (fnat 2) ld.b0) (fadd (fsub y0 ld.y1) ld.y2))
    let n2 := fadd ld.y2 (fmul ld.b0 (fadd (fsub n1 (fmul (fnat 2) ld.y2)) ld.y3))
    let n3 := fadd ld.y3 (fmul ld.b0 (fadd (fsub n2 (fmul (fnat 2) ld.y3)) ld.y4))
    let n4 := fadd ld.y4 (fmul ld.b0 (fsub n3 (fmul (fnat 2) ld.y4)))
    ladderRender c ld x =
      ({ ld with
          fbhp := fb.1
          y0 := y0
          y1 := fadd n1 c.denormalBias
          y2 := fadd n2 c.denormalBias
          y3 := fadd n3 c.denormalBias
          y4 := fadd n4 c.denormalBias }, fmul (fmul (fnat 2) ld.g) n4))

/-- R306, R400, R403: the chain's high-passes, all-pass, notch and declicker and the ladder's feedback high-pass are
"designed once at construction and never redesigned": a step of a constructed engine changes their delay registers at
most. -/
def Obligations.FixedFiltersAreNeverRedesigned : Prop :=
  ∀ s t : State, s.constructed = true → step s = .next t →
    t.hp1 = { s.hp1 with x1 := t.hp1.x1, y1 := t.hp1.y1 } ∧
    t.ap = { s.ap with x1 := t.ap.x1, y1 := t.ap.y1 } ∧
    t.hp2 = { s.hp2 with x1 := t.hp2.x1, y1 := t.hp2.y1 } ∧
    t.notch = { s.notch with x1 := t.notch.x1, x2 := t.notch.x2, y1 := t.notch.y1, y2 := t.notch.y2 } ∧
    t.declick =
      { s.declick with x1 := t.declick.x1, x2 := t.declick.x2, y1 := t.declick.y1, y2 := t.declick.y2 } ∧
    t.ladder.fbhp = { s.ladder.fbhp with x1 := t.ladder.fbhp.x1, y1 := t.ladder.fbhp.y1 }

/-- R271: a bypass instance returns its input unchanged and writes no state. -/
def Obligations.BypassReturnsItsInput : Prop :=
  ∀ (c : EngineConfig binary32) (F : Biquad binary32) (x : F32), F.bypass = true → biquadRender c F x = (F, x)

/-- R340, R341, R342, E6: the saturator at every amount and shape. Inside the band |x| ≤ t, for the threshold
t = 1 − 0.9·amount, the input times the gain 1/t; outside it, the hard clip, moved by the shape towards the fold of
period 4t, times the gain. With amount 0, inputs in [−1, 1] pass unchanged, bit for bit. -/
def Obligations.SaturatorPassesAndFolds : Prop :=
  ∀ amount shape x : F32,
    let t := fsub (fnat 1) (fmul (fratio 9 10) amount)
    let gain := fdiv (fnat 1) t
    let period := fmul (fnat 4) t
    let m := fsub (fadd x t) (fmul period (ffloor (fdiv (fadd x t) period)))
    let fold := fsub t (fabs (fsub m (fmul (fnat 2) t)))
    let clip := fclamp x (fneg t) t
    (fle (fabs x) t = true → saturate amount shape x = fmul x gain) ∧
    (fle (fabs x) t = false →
      saturate amount shape x = fmul (fadd clip (fmul shape (fsub fold clip))) gain) ∧
    (amount = fnat 0 → fle (fabs x) (fnat 1) = true → saturate amount shape x = x)

/-- R342: "A NaN input returns NaN, and so does an infinite input", at every amount and shape. -/
def Obligations.SaturatorGivesNaNForNonFinite : Prop :=
  ∀ amount shape x : F32, finite x = false → isNaN (saturate amount shape x) = true

/-- R345, R346: the tap is the value written one `delayLength` samples ago: after `delayLength` samples the
position is back, and the next output is the input plus what the first of them wrote. -/
def Obligations.DelayTapIsOneLengthOld : Prop :=
  ∀ (s : State) (x y : F32) (xs : List F32), s.delayBuf.wf →
    s.delayPos < s.params.delayLength → xs.length + 1 = s.params.delayLength →
    let t := (delayRun (x :: xs) s).1
    t.delayPos = s.delayPos ∧
    (delayRender t y).2 = fadd y
      (fadd (fadd (fmul s.params.delaySend x) (fmul s.params.delayFeedback (memRead s.delayBuf s.delayPos)))
        s.config.denormalBias)

/-- R347: a change of the length keeps the buffer and the position; the next render advances the position modulo
the new length, so it is below the new length, and below DELAY_CAP. -/
def Obligations.DelayLengthChangeKeepsTheBuffer : Prop :=
  ∀ (u : U32) (s : State), 1 ≤ delayCap s.config → ∃ t : State, exec (.setDelayLength u) s = .next t ∧
    (∀ a, memRead t.delayBuf a = memRead s.delayBuf a) ∧ t.delayPos = s.delayPos ∧
    ∀ x : F32,
      (delayRender t x).1.delayPos = (s.delayPos + 1) % t.params.delayLength ∧
      (delayRender t x).1.delayPos < t.params.delayLength ∧
      (delayRender t x).1.delayPos < delayCap s.config

/-- R348: the impulse law, for every length, at the decided bias (D30), which 1.0 absorbs. -/
def Obligations.ImpulseReturnsAfterOneLength : Prop :=
  ∀ s : State, s.config.denormalBias = fratio 1 (10 ^ 18) → s.params.delaySend = fnat 1 →
    s.params.delayFeedback = fnat 0 → 1 ≤ s.params.delayLength → (∀ a, memRead s.delayBuf a = fnat 0) →
    s.delayBuf.wf → s.delayPos = 0 →
    ∀ k, k ≤ 2 * s.params.delayLength →
      (delayRun (fnat 1 :: List.replicate (2 * s.params.delayLength) (fnat 0)) s).2[k]? =
        some (if k = 0 ∨ k = s.params.delayLength then fnat 1
          else if k < s.params.delayLength then fnat 0 else s.config.denormalBias)

/-! ## The voice (46_voice.md) -/

/-- R394: a notification appends `StepChanged p` in its encoding and changes nothing else, no other byte of NOTIFY
among it; when the stream is full it is dropped and logged. -/
def Obligations.NotificationIsTheEncodedStep : Prop :=
  ∀ (p : Fin Config.maxSteps) (s : State), s.notify.wf →
    (s.notifyLen + 5 ≤ s.config.notifyCap →
      notifications (pushNotify p s) = notifications s ++ [0x3C#8, BitVec.ofNat 8 p.val, 0#8, 0#8, 0#8] ∧
      (pushNotify p s).notifyLen = s.notifyLen + 5 ∧
      (∀ a, a < s.notifyLen ∨ s.notifyLen + 5 ≤ a → memRead (pushNotify p s).notify a = memRead s.notify a) ∧
      { pushNotify p s with notify := s.notify, notifyLen := s.notifyLen } = s) ∧
    (s.config.notifyCap < s.notifyLen + 5 →
      pushNotify p s = { s with log := s.log ++ [⟨.notifyOverflow, BitVec.ofNat 32 p.val⟩] })

/-- R394: what the notification of step `p` does to NOTIFY and the log: five bytes in the encoding of `StepChanged p`
where there is room for them, with every other byte kept; else one log record. -/
def Sys2Proof.Claims.Notifies (p : Fin Config.maxSteps) (s t : State) : Prop :=
  (s.notifyLen + 5 ≤ s.config.notifyCap →
    notifications t = notifications s ++ encode (.stepChanged (BitVec.ofNat 32 p.val)) ∧
    t.notifyLen = s.notifyLen + 5 ∧ t.log = s.log ∧
    ∀ a, a < s.notifyLen ∨ s.notifyLen + 5 ≤ a → memRead t.notify a = memRead s.notify a) ∧
  (s.config.notifyCap < s.notifyLen + 5 →
    t.notify = s.notify ∧ t.notifyLen = s.notifyLen ∧ t.log = s.log ++ [⟨.notifyOverflow, BitVec.ofNat 32 p.val⟩])

/-- R390, R391, R395: a sample at which no step is emitted advances the sequencer and nothing else, before its
envelopes decay; a disabled step also emits its notification; the oscillator, the envelopes, the multipliers, the
accent and everything else stay. -/
def Obligations.RestOnlyNotifies : Prop :=
  ∀ (s : State) (q : Sequencer),
    (seqAdvance s.config s.params.tempo s.seq = (q, none) → voiceSequence s = { s with seq := q }) ∧
    (∀ (p : Fin Config.maxSteps) (st : Step), s.notify.wf →
      seqAdvance s.config s.params.tempo s.seq = (q, some (p, st)) → st.enabled = false →
      let t := voiceSequence s
      t.seq = q ∧ Sys2Proof.Claims.Notifies p s t ∧
      { t with seq := s.seq, notify := s.notify, notifyLen := s.notifyLen, log := s.log } = s)

/-- R391 to R394, R396, R210, R212, R215: an enabled slide step recomputes the multipliers, starts a glide of GLIDE_TICKS
control ticks and notifies; it retriggers no envelope and moves neither phase nor increment; the sequencer has
advanced, and nothing else changes. -/
def Obligations.SlideStepIsLegato : Prop :=
  ∀ (s : State) (q : Sequencer) (p : Fin Config.maxSteps) (st : Step), s.notify.wf →
    seqAdvance s.config s.params.tempo s.seq = (q, some (p, st)) → st.enabled = true → st.slide = true →
    let t := voiceSequence s
    t.ampEnv = s.ampEnv ∧ t.filtEnv = s.filtEnv ∧ t.osc.phase = s.osc.phase ∧ t.osc.inc = s.osc.inc ∧
    t.osc.glideTarget = Sys2Proof.Claims.increment s.config (targetPitch st) ∧
    t.osc.glideLeft = s.config.glideTicks ∧
    t.osc.glideDelta = fdiv (fsub t.osc.glideTarget s.osc.inc) (fnat s.config.glideTicks) ∧
    (t.osc.segNote.val : Int) = Sys2Proof.Claims.segment st ∧ t.osc.segWave = s.params.waveform ∧
    t.accentActive = st.accent ∧
    t.ampMul = Sys2Proof.Claims.multiplier s.config st.accent s.params.decay ∧
    t.filtMul = t.ampMul ∧ t.seq = q ∧ Sys2Proof.Claims.Notifies p s t ∧
    { t with
      seq := s.seq, osc := s.osc, ampMul := s.ampMul, filtMul := s.filtMul, accentActive := s.accentActive
      notify := s.notify, notifyLen := s.notifyLen, log := s.log } = s

/-- R210, R211, R215, R391 to R394: an enabled step without slide restarts the oscillator at phase 0 with no glide, sets both
envelopes to 1, recomputes the multipliers and notifies; the sequencer has advanced, and nothing else changes. -/
def Obligations.NewNoteRetriggers : Prop :=
  ∀ (s : State) (q : Sequencer) (p : Fin Config.maxSteps) (st : Step), s.notify.wf →
    seqAdvance s.config s.params.tempo s.seq = (q, some (p, st)) → st.enabled = true → st.slide = false →
    let t := voiceSequence s
    t.ampEnv = fnat 1 ∧ t.filtEnv = fnat 1 ∧ t.osc.phase = fnat 0 ∧
    t.osc.inc = Sys2Proof.Claims.increment s.config (targetPitch st) ∧
    t.osc.glideLeft = 0 ∧ t.osc.glideDelta = fnat 0 ∧ t.osc.glideTarget = t.osc.inc ∧
    (t.osc.segNote.val : Int) = Sys2Proof.Claims.segment st ∧ t.osc.segWave = s.params.waveform ∧
    t.accentActive = st.accent ∧
    t.ampMul = Sys2Proof.Claims.multiplier s.config st.accent s.params.decay ∧
    t.filtMul = t.ampMul ∧ t.seq = q ∧ Sys2Proof.Claims.Notifies p s t ∧
    { t with
      seq := s.seq, osc := s.osc, ampEnv := s.ampEnv, filtEnv := s.filtEnv, ampMul := s.ampMul
      filtMul := s.filtMul, accentActive := s.accentActive
      notify := s.notify, notifyLen := s.notifyLen, log := s.log } = s

/-- R55, R140, R147, R214, R216, R301 to R303, R390, R397 to R399, R401, R471: what the step of sample `i` leaves beside
the outputs, the filters and the delay (SampleIsStoredInBothOutputs), after the sequencer's part of the sample
(`voiceSequence`: RestOnlyNotifies, SlideStepIsLegato, NewNoteRetriggers). The sequencer, the notifications and the log
are those that this part leaves. The counter counts one. Each envelope is multiplied by its multiplier. Between control
ticks the phase alone advances, so that the increment and `glideLeft` stay, and the swept cutoff and the ladder's
coefficients stay; at a tick one increment of a glide is applied too, and the swept cutoff and the coefficients are those
of the sample's registers and envelope. The parameters, CMD and the host's calls stay; the next sample of the block is
next, or after the last one the call has returned the cursor. (`stage`, `returned`, `config` and `host` are the model's own
fields, logs 1, 13, 7 and 2.) -/
def Obligations.SampleDecaysAndTicks : Prop :=
  ∀ (s t : State) (i : Nat), s.stage = .render i → step s = .next t →
    let c := s.config
    let v := voiceSequence s
    let phase := Sys2Proof.Claims.advanced c v.osc.phase v.osc.inc
    (t.seq = v.seq ∧ t.notify = v.notify ∧ t.notifyLen = v.notifyLen ∧ t.log = v.log) ∧
    t.sampleCount = s.sampleCount + 1#64 ∧
    t.ampEnv = fmul v.ampEnv v.ampMul ∧ t.filtEnv = fmul v.filtEnv v.filtMul ∧
    t.ampMul = v.ampMul ∧ t.filtMul = v.filtMul ∧ t.accentActive = v.accentActive ∧
    (s.sampleCount.toNat % 64 ≠ 0 →
      t.osc = { v.osc with phase := phase } ∧ t.osc.glideLeft = v.osc.glideLeft ∧ t.sweptCutoff = s.sweptCutoff ∧
      t.ladder.b0 = s.ladder.b0 ∧ t.ladder.g = s.ladder.g ∧ t.ladder.k = s.ladder.k) ∧
    (s.sampleCount.toNat % 64 = 0 →
      t.osc = Sys2Proof.Claims.glided { v.osc with phase := phase } ∧
      t.sweptCutoff = Sys2Proof.Claims.swept c s.params t.accentActive t.filtEnv ∧
      t.ladder = Sys2Proof.Claims.redesigned c t.ladder t.sweptCutoff s.params.resonance) ∧
    t.config = c ∧ t.params = s.params ∧ t.cmd = s.cmd ∧ t.cursor = s.cursor ∧ t.host = s.host ∧
    t.stage = (if i + 1 < c.blockLen then .render (i + 1) else .idle) ∧
    t.returned = (if i + 1 < c.blockLen then s.returned else some (BitVec.ofNat 32 s.cursor))

/-- R56, R90: no step of a constructed engine writes the delay RAM but a sample, at `delayPos` only. -/
def Obligations.DelayRamIsWrittenAtItsPositionOnly : Prop :=
  ∀ s t : State, s.constructed = true → step s = .next t → ∀ a, memRead t.delayBuf a ≠ memRead s.delayBuf a →
    (∃ i, s.stage = .render i) ∧ a = s.delayPos
end

