-- ==== Sys2Proof/Machine/AnyFormat.lean ====
section
/-! DEFINITION. The machine at any choice of REAL (00_scope.md R7: "A model may instantiate another value for any decided parameter"; 10_state.md R63). At binary32, the decided choice (D7), it is the machine of Dispatch.lean, Step.lean and Process.lean, as Laws/AnyFormat.lean proves. -/

namespace Sys2Proof.Machine

variable {F : Format}

/-- `apply(op, operand)` (R151): the dispatch of `exec`, at any REAL. -/
def execAt (i : Instr) (s : State F) : Host.Outcome (State F) Fault Refusal :=
  match i with
  | .nop => execNop s
  | .setWaveform u => execSetWaveform u s
  | .setRunning u => execSetRunning u s
  | .setStep u => execSetStep u s
  | .setPatternLength u => execSetPatternLength u s
  | .setNextPattern u => execSetNextPattern u s
  | .setDelayLength u => execSetDelayLength u s
  | .setCutoff v => execSetCutoff v s
  | .setResonance v => execSetResonance v s
  | .setEnvMod v => execSetEnvMod v s
  | .setDecay v => execSetDecay v s
  | .setAccent v => execSetAccent v s
  | .setDistortionShape v => execSetDistortionShape v s
  | .setDistortionThreshold v => execSetDistortionThreshold v s
  | .setDelaySend v => execSetDelaySend v s
  | .setDelayFeedback v => execSetDelayFeedback v s
  | .setTempo v => execSetTempo v s
  | .stepChanged u => execStepChanged u s

/-- One step, at any REAL. -/
def stepAt (s : State F) : Host.Outcome (State F) Fault Refusal := stepWith execAt s

/-- `process(validLength)` (R140), at any REAL. -/
def processAt (validLength : U32) (s : State F) : Host.Outcome (State F) Fault Refusal :=
  processWith execAt validLength s

end Sys2Proof.Machine
end

