-- ==== Sys2Proof/Laws/AnyFormat.lean ====
section
/-! SUPPORT. The machine at any REAL is, at binary32, the machine of the decided parameters (00_scope.md R7, D7). -/

namespace Sys2Proof.Machine

theorem execAt_decided (i : Instr) (s : State) : execAt i s = exec i s := by
  cases i <;> rfl

theorem stepAt_decided (s : State) : stepAt s = step s := by
  rw [stepAt, step, show (execAt : Apply binary32) = exec from funext fun i => funext (execAt_decided i)]

theorem processAt_decided (v : U32) (s : State) : processAt v s = process v s := by
  rw [processAt, process, show (execAt : Apply binary32) = exec from funext fun i => funext (execAt_decided i)]

/-- Each format's construction state is the one of its decided parameters; at binary32 it is the reset state. -/
theorem construct_decided : State.construct (decidedConfig binary32) = State.reset := rfl

end Sys2Proof.Machine
end

