-- ==== Sys2Proof/Laws/State.lean ====
section
/-! SUPPORT. What each update of the state leaves in each field: one lemma for each field of each update, true by rfl. Lean displays a field `s.osc` of a State as `s.osc binary32`: what it adds is the type's argument REAL at the decided format, and it is not written. -/

namespace Sys2Proof.Machine

/-- A value of a format is itself in that format. -/
@[simp] theorem convert_self {F : Format} (a : REAL F) : convert a = a := by
  simp [convert]

variable (s : State)

/-! ## updateParams -/

@[simp] theorem updateParams_config (f : Params binary32 → Params binary32) : (updateParams f s).config = s.config := rfl
@[simp] theorem updateParams_stage (f : Params binary32 → Params binary32) : (updateParams f s).stage = s.stage := rfl
@[simp] theorem updateParams_cursor (f : Params binary32 → Params binary32) : (updateParams f s).cursor = s.cursor := rfl
@[simp] theorem updateParams_returned (f : Params binary32 → Params binary32) : (updateParams f s).returned = s.returned := rfl
@[simp] theorem updateParams_host (f : Params binary32 → Params binary32) : (updateParams f s).host = s.host := rfl
@[simp] theorem updateParams_cmd (f : Params binary32 → Params binary32) : (updateParams f s).cmd = s.cmd := rfl
@[simp] theorem updateParams_outL (f : Params binary32 → Params binary32) : (updateParams f s).outL = s.outL := rfl
@[simp] theorem updateParams_outR (f : Params binary32 → Params binary32) : (updateParams f s).outR = s.outR := rfl
@[simp] theorem updateParams_notify (f : Params binary32 → Params binary32) : (updateParams f s).notify = s.notify := rfl
@[simp] theorem updateParams_notifyLen (f : Params binary32 → Params binary32) : (updateParams f s).notifyLen = s.notifyLen := rfl
@[simp] theorem updateParams_log (f : Params binary32 → Params binary32) : (updateParams f s).log = s.log := rfl
@[simp] theorem updateParams_params (f : Params binary32 → Params binary32) : (updateParams f s).params = f s.params := rfl
@[simp] theorem updateParams_seq (f : Params binary32 → Params binary32) : (updateParams f s).seq = s.seq := rfl
@[simp] theorem updateParams_osc (f : Params binary32 → Params binary32) : (updateParams f s).osc = s.osc := rfl
@[simp] theorem updateParams_hp1 (f : Params binary32 → Params binary32) : (updateParams f s).hp1 = s.hp1 := rfl
@[simp] theorem updateParams_ap (f : Params binary32 → Params binary32) : (updateParams f s).ap = s.ap := rfl
@[simp] theorem updateParams_hp2 (f : Params binary32 → Params binary32) : (updateParams f s).hp2 = s.hp2 := rfl
@[simp] theorem updateParams_notch (f : Params binary32 → Params binary32) : (updateParams f s).notch = s.notch := rfl
@[simp] theorem updateParams_declick (f : Params binary32 → Params binary32) : (updateParams f s).declick = s.declick := rfl
@[simp] theorem updateParams_ladder (f : Params binary32 → Params binary32) : (updateParams f s).ladder = s.ladder := rfl
@[simp] theorem updateParams_sweptCutoff (f : Params binary32 → Params binary32) : (updateParams f s).sweptCutoff = s.sweptCutoff := rfl
@[simp] theorem updateParams_ampEnv (f : Params binary32 → Params binary32) : (updateParams f s).ampEnv = s.ampEnv := rfl
@[simp] theorem updateParams_filtEnv (f : Params binary32 → Params binary32) : (updateParams f s).filtEnv = s.filtEnv := rfl
@[simp] theorem updateParams_ampMul (f : Params binary32 → Params binary32) : (updateParams f s).ampMul = s.ampMul := rfl
@[simp] theorem updateParams_filtMul (f : Params binary32 → Params binary32) : (updateParams f s).filtMul = s.filtMul := rfl
@[simp] theorem updateParams_accentActive (f : Params binary32 → Params binary32) : (updateParams f s).accentActive = s.accentActive := rfl
@[simp] theorem updateParams_sampleCount (f : Params binary32 → Params binary32) : (updateParams f s).sampleCount = s.sampleCount := rfl
@[simp] theorem updateParams_delayBuf (f : Params binary32 → Params binary32) : (updateParams f s).delayBuf = s.delayBuf := rfl
@[simp] theorem updateParams_delayPos (f : Params binary32 → Params binary32) : (updateParams f s).delayPos = s.delayPos := rfl

/-! ## updateSeq -/

@[simp] theorem updateSeq_config (f : Sequencer → Sequencer) : (updateSeq f s).config = s.config := rfl
@[simp] theorem updateSeq_stage (f : Sequencer → Sequencer) : (updateSeq f s).stage = s.stage := rfl
@[simp] theorem updateSeq_cursor (f : Sequencer → Sequencer) : (updateSeq f s).cursor = s.cursor := rfl
@[simp] theorem updateSeq_returned (f : Sequencer → Sequencer) : (updateSeq f s).returned = s.returned := rfl
@[simp] theorem updateSeq_host (f : Sequencer → Sequencer) : (updateSeq f s).host = s.host := rfl
@[simp] theorem updateSeq_cmd (f : Sequencer → Sequencer) : (updateSeq f s).cmd = s.cmd := rfl
@[simp] theorem updateSeq_outL (f : Sequencer → Sequencer) : (updateSeq f s).outL = s.outL := rfl
@[simp] theorem updateSeq_outR (f : Sequencer → Sequencer) : (updateSeq f s).outR = s.outR := rfl
@[simp] theorem updateSeq_notify (f : Sequencer → Sequencer) : (updateSeq f s).notify = s.notify := rfl
@[simp] theorem updateSeq_notifyLen (f : Sequencer → Sequencer) : (updateSeq f s).notifyLen = s.notifyLen := rfl
@[simp] theorem updateSeq_log (f : Sequencer → Sequencer) : (updateSeq f s).log = s.log := rfl
@[simp] theorem updateSeq_params (f : Sequencer → Sequencer) : (updateSeq f s).params = s.params := rfl
@[simp] theorem updateSeq_seq (f : Sequencer → Sequencer) : (updateSeq f s).seq = f s.seq := rfl
@[simp] theorem updateSeq_osc (f : Sequencer → Sequencer) : (updateSeq f s).osc = s.osc := rfl
@[simp] theorem updateSeq_hp1 (f : Sequencer → Sequencer) : (updateSeq f s).hp1 = s.hp1 := rfl
@[simp] theorem updateSeq_ap (f : Sequencer → Sequencer) : (updateSeq f s).ap = s.ap := rfl
@[simp] theorem updateSeq_hp2 (f : Sequencer → Sequencer) : (updateSeq f s).hp2 = s.hp2 := rfl
@[simp] theorem updateSeq_notch (f : Sequencer → Sequencer) : (updateSeq f s).notch = s.notch := rfl
@[simp] theorem updateSeq_declick (f : Sequencer → Sequencer) : (updateSeq f s).declick = s.declick := rfl
@[simp] theorem updateSeq_ladder (f : Sequencer → Sequencer) : (updateSeq f s).ladder = s.ladder := rfl
@[simp] theorem updateSeq_sweptCutoff (f : Sequencer → Sequencer) : (updateSeq f s).sweptCutoff = s.sweptCutoff := rfl
@[simp] theorem updateSeq_ampEnv (f : Sequencer → Sequencer) : (updateSeq f s).ampEnv = s.ampEnv := rfl
@[simp] theorem updateSeq_filtEnv (f : Sequencer → Sequencer) : (updateSeq f s).filtEnv = s.filtEnv := rfl
@[simp] theorem updateSeq_ampMul (f : Sequencer → Sequencer) : (updateSeq f s).ampMul = s.ampMul := rfl
@[simp] theorem updateSeq_filtMul (f : Sequencer → Sequencer) : (updateSeq f s).filtMul = s.filtMul := rfl
@[simp] theorem updateSeq_accentActive (f : Sequencer → Sequencer) : (updateSeq f s).accentActive = s.accentActive := rfl
@[simp] theorem updateSeq_sampleCount (f : Sequencer → Sequencer) : (updateSeq f s).sampleCount = s.sampleCount := rfl
@[simp] theorem updateSeq_delayBuf (f : Sequencer → Sequencer) : (updateSeq f s).delayBuf = s.delayBuf := rfl
@[simp] theorem updateSeq_delayPos (f : Sequencer → Sequencer) : (updateSeq f s).delayPos = s.delayPos := rfl

/-! ## updateOsc -/

@[simp] theorem updateOsc_config (f : Oscillator binary32 → Oscillator binary32) : (updateOsc f s).config = s.config := rfl
@[simp] theorem updateOsc_stage (f : Oscillator binary32 → Oscillator binary32) : (updateOsc f s).stage = s.stage := rfl
@[simp] theorem updateOsc_cursor (f : Oscillator binary32 → Oscillator binary32) : (updateOsc f s).cursor = s.cursor := rfl
@[simp] theorem updateOsc_returned (f : Oscillator binary32 → Oscillator binary32) : (updateOsc f s).returned = s.returned := rfl
@[simp] theorem updateOsc_host (f : Oscillator binary32 → Oscillator binary32) : (updateOsc f s).host = s.host := rfl
@[simp] theorem updateOsc_cmd (f : Oscillator binary32 → Oscillator binary32) : (updateOsc f s).cmd = s.cmd := rfl
@[simp] theorem updateOsc_outL (f : Oscillator binary32 → Oscillator binary32) : (updateOsc f s).outL = s.outL := rfl
@[simp] theorem updateOsc_outR (f : Oscillator binary32 → Oscillator binary32) : (updateOsc f s).outR = s.outR := rfl
@[simp] theorem updateOsc_notify (f : Oscillator binary32 → Oscillator binary32) : (updateOsc f s).notify = s.notify := rfl
@[simp] theorem updateOsc_notifyLen (f : Oscillator binary32 → Oscillator binary32) : (updateOsc f s).notifyLen = s.notifyLen := rfl
@[simp] theorem updateOsc_log (f : Oscillator binary32 → Oscillator binary32) : (updateOsc f s).log = s.log := rfl
@[simp] theorem updateOsc_params (f : Oscillator binary32 → Oscillator binary32) : (updateOsc f s).params = s.params := rfl
@[simp] theorem updateOsc_seq (f : Oscillator binary32 → Oscillator binary32) : (updateOsc f s).seq = s.seq := rfl
@[simp] theorem updateOsc_osc (f : Oscillator binary32 → Oscillator binary32) : (updateOsc f s).osc = f s.osc := rfl
@[simp] theorem updateOsc_hp1 (f : Oscillator binary32 → Oscillator binary32) : (updateOsc f s).hp1 = s.hp1 := rfl
@[simp] theorem updateOsc_ap (f : Oscillator binary32 → Oscillator binary32) : (updateOsc f s).ap = s.ap := rfl
@[simp] theorem updateOsc_hp2 (f : Oscillator binary32 → Oscillator binary32) : (updateOsc f s).hp2 = s.hp2 := rfl
@[simp] theorem updateOsc_notch (f : Oscillator binary32 → Oscillator binary32) : (updateOsc f s).notch = s.notch := rfl
@[simp] theorem updateOsc_declick (f : Oscillator binary32 → Oscillator binary32) : (updateOsc f s).declick = s.declick := rfl
@[simp] theorem updateOsc_ladder (f : Oscillator binary32 → Oscillator binary32) : (updateOsc f s).ladder = s.ladder := rfl
@[simp] theorem updateOsc_sweptCutoff (f : Oscillator binary32 → Oscillator binary32) : (updateOsc f s).sweptCutoff = s.sweptCutoff := rfl
@[simp] theorem updateOsc_ampEnv (f : Oscillator binary32 → Oscillator binary32) : (updateOsc f s).ampEnv = s.ampEnv := rfl
@[simp] theorem updateOsc_filtEnv (f : Oscillator binary32 → Oscillator binary32) : (updateOsc f s).filtEnv = s.filtEnv := rfl
@[simp] theorem updateOsc_ampMul (f : Oscillator binary32 → Oscillator binary32) : (updateOsc f s).ampMul = s.ampMul := rfl
@[simp] theorem updateOsc_filtMul (f : Oscillator binary32 → Oscillator binary32) : (updateOsc f s).filtMul = s.filtMul := rfl
@[simp] theorem updateOsc_accentActive (f : Oscillator binary32 → Oscillator binary32) : (updateOsc f s).accentActive = s.accentActive := rfl
@[simp] theorem updateOsc_sampleCount (f : Oscillator binary32 → Oscillator binary32) : (updateOsc f s).sampleCount = s.sampleCount := rfl
@[simp] theorem updateOsc_delayBuf (f : Oscillator binary32 → Oscillator binary32) : (updateOsc f s).delayBuf = s.delayBuf := rfl
@[simp] theorem updateOsc_delayPos (f : Oscillator binary32 → Oscillator binary32) : (updateOsc f s).delayPos = s.delayPos := rfl

/-! ## logSkip -/

@[simp] theorem logSkip_config (k : LogKind) (u : U32) : (logSkip k u s).config = s.config := rfl
@[simp] theorem logSkip_stage (k : LogKind) (u : U32) : (logSkip k u s).stage = s.stage := rfl
@[simp] theorem logSkip_cursor (k : LogKind) (u : U32) : (logSkip k u s).cursor = s.cursor := rfl
@[simp] theorem logSkip_returned (k : LogKind) (u : U32) : (logSkip k u s).returned = s.returned := rfl
@[simp] theorem logSkip_host (k : LogKind) (u : U32) : (logSkip k u s).host = s.host := rfl
@[simp] theorem logSkip_cmd (k : LogKind) (u : U32) : (logSkip k u s).cmd = s.cmd := rfl
@[simp] theorem logSkip_outL (k : LogKind) (u : U32) : (logSkip k u s).outL = s.outL := rfl
@[simp] theorem logSkip_outR (k : LogKind) (u : U32) : (logSkip k u s).outR = s.outR := rfl
@[simp] theorem logSkip_notify (k : LogKind) (u : U32) : (logSkip k u s).notify = s.notify := rfl
@[simp] theorem logSkip_notifyLen (k : LogKind) (u : U32) : (logSkip k u s).notifyLen = s.notifyLen := rfl
@[simp] theorem logSkip_log (k : LogKind) (u : U32) : (logSkip k u s).log = s.log ++ [⟨k, u⟩] := rfl
@[simp] theorem logSkip_params (k : LogKind) (u : U32) : (logSkip k u s).params = s.params := rfl
@[simp] theorem logSkip_seq (k : LogKind) (u : U32) : (logSkip k u s).seq = s.seq := rfl
@[simp] theorem logSkip_osc (k : LogKind) (u : U32) : (logSkip k u s).osc = s.osc := rfl
@[simp] theorem logSkip_hp1 (k : LogKind) (u : U32) : (logSkip k u s).hp1 = s.hp1 := rfl
@[simp] theorem logSkip_ap (k : LogKind) (u : U32) : (logSkip k u s).ap = s.ap := rfl
@[simp] theorem logSkip_hp2 (k : LogKind) (u : U32) : (logSkip k u s).hp2 = s.hp2 := rfl
@[simp] theorem logSkip_notch (k : LogKind) (u : U32) : (logSkip k u s).notch = s.notch := rfl
@[simp] theorem logSkip_declick (k : LogKind) (u : U32) : (logSkip k u s).declick = s.declick := rfl
@[simp] theorem logSkip_ladder (k : LogKind) (u : U32) : (logSkip k u s).ladder = s.ladder := rfl
@[simp] theorem logSkip_sweptCutoff (k : LogKind) (u : U32) : (logSkip k u s).sweptCutoff = s.sweptCutoff := rfl
@[simp] theorem logSkip_ampEnv (k : LogKind) (u : U32) : (logSkip k u s).ampEnv = s.ampEnv := rfl
@[simp] theorem logSkip_filtEnv (k : LogKind) (u : U32) : (logSkip k u s).filtEnv = s.filtEnv := rfl
@[simp] theorem logSkip_ampMul (k : LogKind) (u : U32) : (logSkip k u s).ampMul = s.ampMul := rfl
@[simp] theorem logSkip_filtMul (k : LogKind) (u : U32) : (logSkip k u s).filtMul = s.filtMul := rfl
@[simp] theorem logSkip_accentActive (k : LogKind) (u : U32) : (logSkip k u s).accentActive = s.accentActive := rfl
@[simp] theorem logSkip_sampleCount (k : LogKind) (u : U32) : (logSkip k u s).sampleCount = s.sampleCount := rfl
@[simp] theorem logSkip_delayBuf (k : LogKind) (u : U32) : (logSkip k u s).delayBuf = s.delayBuf := rfl
@[simp] theorem logSkip_delayPos (k : LogKind) (u : U32) : (logSkip k u s).delayPos = s.delayPos := rfl

/-! ## redesignLadder -/

@[simp] theorem redesignLadder_config : (redesignLadder s).config = s.config := by simp only [redesignLadder]
@[simp] theorem redesignLadder_stage : (redesignLadder s).stage = s.stage := by simp only [redesignLadder]
@[simp] theorem redesignLadder_cursor : (redesignLadder s).cursor = s.cursor := by simp only [redesignLadder]
@[simp] theorem redesignLadder_returned : (redesignLadder s).returned = s.returned := by simp only [redesignLadder]
@[simp] theorem redesignLadder_host : (redesignLadder s).host = s.host := by simp only [redesignLadder]
@[simp] theorem redesignLadder_cmd : (redesignLadder s).cmd = s.cmd := by simp only [redesignLadder]
@[simp] theorem redesignLadder_outL : (redesignLadder s).outL = s.outL := by simp only [redesignLadder]
@[simp] theorem redesignLadder_outR : (redesignLadder s).outR = s.outR := by simp only [redesignLadder]
@[simp] theorem redesignLadder_notify : (redesignLadder s).notify = s.notify := by simp only [redesignLadder]
@[simp] theorem redesignLadder_notifyLen : (redesignLadder s).notifyLen = s.notifyLen := by simp only [redesignLadder]
@[simp] theorem redesignLadder_log : (redesignLadder s).log = s.log := by simp only [redesignLadder]
@[simp] theorem redesignLadder_params : (redesignLadder s).params = s.params := by simp only [redesignLadder]
@[simp] theorem redesignLadder_seq : (redesignLadder s).seq = s.seq := by simp only [redesignLadder]
@[simp] theorem redesignLadder_osc : (redesignLadder s).osc = s.osc := by simp only [redesignLadder]
@[simp] theorem redesignLadder_hp1 : (redesignLadder s).hp1 = s.hp1 := by simp only [redesignLadder]
@[simp] theorem redesignLadder_ap : (redesignLadder s).ap = s.ap := by simp only [redesignLadder]
@[simp] theorem redesignLadder_hp2 : (redesignLadder s).hp2 = s.hp2 := by simp only [redesignLadder]
@[simp] theorem redesignLadder_notch : (redesignLadder s).notch = s.notch := by simp only [redesignLadder]
@[simp] theorem redesignLadder_declick : (redesignLadder s).declick = s.declick := by simp only [redesignLadder]
@[simp] theorem redesignLadder_ladder : (redesignLadder s).ladder = ladderDesign s.config s.ladder (sweptCutoffOf s.config s.params s.accentActive s.filtEnv) s.params.resonance := by simp only [redesignLadder]
@[simp] theorem redesignLadder_sweptCutoff : (redesignLadder s).sweptCutoff = sweptCutoffOf s.config s.params s.accentActive s.filtEnv := by simp only [redesignLadder]
@[simp] theorem redesignLadder_ampEnv : (redesignLadder s).ampEnv = s.ampEnv := by simp only [redesignLadder]
@[simp] theorem redesignLadder_filtEnv : (redesignLadder s).filtEnv = s.filtEnv := by simp only [redesignLadder]
@[simp] theorem redesignLadder_ampMul : (redesignLadder s).ampMul = s.ampMul := by simp only [redesignLadder]
@[simp] theorem redesignLadder_filtMul : (redesignLadder s).filtMul = s.filtMul := by simp only [redesignLadder]
@[simp] theorem redesignLadder_accentActive : (redesignLadder s).accentActive = s.accentActive := by simp only [redesignLadder]
@[simp] theorem redesignLadder_sampleCount : (redesignLadder s).sampleCount = s.sampleCount := by simp only [redesignLadder]
@[simp] theorem redesignLadder_delayBuf : (redesignLadder s).delayBuf = s.delayBuf := by simp only [redesignLadder]
@[simp] theorem redesignLadder_delayPos : (redesignLadder s).delayPos = s.delayPos := by simp only [redesignLadder]

/-! ## decayEnvelopes -/

@[simp] theorem decayEnvelopes_config : (decayEnvelopes s).config = s.config := rfl
@[simp] theorem decayEnvelopes_stage : (decayEnvelopes s).stage = s.stage := rfl
@[simp] theorem decayEnvelopes_cursor : (decayEnvelopes s).cursor = s.cursor := rfl
@[simp] theorem decayEnvelopes_returned : (decayEnvelopes s).returned = s.returned := rfl
@[simp] theorem decayEnvelopes_host : (decayEnvelopes s).host = s.host := rfl
@[simp] theorem decayEnvelopes_cmd : (decayEnvelopes s).cmd = s.cmd := rfl
@[simp] theorem decayEnvelopes_outL : (decayEnvelopes s).outL = s.outL := rfl
@[simp] theorem decayEnvelopes_outR : (decayEnvelopes s).outR = s.outR := rfl
@[simp] theorem decayEnvelopes_notify : (decayEnvelopes s).notify = s.notify := rfl
@[simp] theorem decayEnvelopes_notifyLen : (decayEnvelopes s).notifyLen = s.notifyLen := rfl
@[simp] theorem decayEnvelopes_log : (decayEnvelopes s).log = s.log := rfl
@[simp] theorem decayEnvelopes_params : (decayEnvelopes s).params = s.params := rfl
@[simp] theorem decayEnvelopes_seq : (decayEnvelopes s).seq = s.seq := rfl
@[simp] theorem decayEnvelopes_osc : (decayEnvelopes s).osc = s.osc := rfl
@[simp] theorem decayEnvelopes_hp1 : (decayEnvelopes s).hp1 = s.hp1 := rfl
@[simp] theorem decayEnvelopes_ap : (decayEnvelopes s).ap = s.ap := rfl
@[simp] theorem decayEnvelopes_hp2 : (decayEnvelopes s).hp2 = s.hp2 := rfl
@[simp] theorem decayEnvelopes_notch : (decayEnvelopes s).notch = s.notch := rfl
@[simp] theorem decayEnvelopes_declick : (decayEnvelopes s).declick = s.declick := rfl
@[simp] theorem decayEnvelopes_ladder : (decayEnvelopes s).ladder = s.ladder := rfl
@[simp] theorem decayEnvelopes_sweptCutoff : (decayEnvelopes s).sweptCutoff = s.sweptCutoff := rfl
@[simp] theorem decayEnvelopes_ampEnv : (decayEnvelopes s).ampEnv = fmul s.ampEnv s.ampMul := rfl
@[simp] theorem decayEnvelopes_filtEnv : (decayEnvelopes s).filtEnv = fmul s.filtEnv s.filtMul := rfl
@[simp] theorem decayEnvelopes_ampMul : (decayEnvelopes s).ampMul = s.ampMul := rfl
@[simp] theorem decayEnvelopes_filtMul : (decayEnvelopes s).filtMul = s.filtMul := rfl
@[simp] theorem decayEnvelopes_accentActive : (decayEnvelopes s).accentActive = s.accentActive := rfl
@[simp] theorem decayEnvelopes_sampleCount : (decayEnvelopes s).sampleCount = s.sampleCount := rfl
@[simp] theorem decayEnvelopes_delayBuf : (decayEnvelopes s).delayBuf = s.delayBuf := rfl
@[simp] theorem decayEnvelopes_delayPos : (decayEnvelopes s).delayPos = s.delayPos := rfl

/-! ## initializeEngine -/

@[simp] theorem initializeEngine_config : (initializeEngine s).config = s.config := rfl
@[simp] theorem initializeEngine_stage : (initializeEngine s).stage = s.stage := rfl
@[simp] theorem initializeEngine_cursor : (initializeEngine s).cursor = s.cursor := rfl
@[simp] theorem initializeEngine_returned : (initializeEngine s).returned = s.returned := rfl
@[simp] theorem initializeEngine_host : (initializeEngine s).host = s.host := rfl
@[simp] theorem initializeEngine_cmd : (initializeEngine s).cmd = s.cmd := rfl
@[simp] theorem initializeEngine_outL : (initializeEngine s).outL = s.outL := rfl
@[simp] theorem initializeEngine_outR : (initializeEngine s).outR = s.outR := rfl
@[simp] theorem initializeEngine_notify : (initializeEngine s).notify = s.notify := rfl
@[simp] theorem initializeEngine_notifyLen : (initializeEngine s).notifyLen = s.notifyLen := rfl
@[simp] theorem initializeEngine_log : (initializeEngine s).log = s.log := rfl
@[simp] theorem initializeEngine_params : (initializeEngine s).params = s.params := rfl
@[simp] theorem initializeEngine_seq : (initializeEngine s).seq = { s.seq with counter := 0#32 } := rfl
@[simp] theorem initializeEngine_osc : (initializeEngine s).osc = s.osc := rfl
@[simp] theorem initializeEngine_hp1 : (initializeEngine s).hp1 = s.hp1 := rfl
@[simp] theorem initializeEngine_ap : (initializeEngine s).ap = s.ap := rfl
@[simp] theorem initializeEngine_hp2 : (initializeEngine s).hp2 = s.hp2 := rfl
@[simp] theorem initializeEngine_notch : (initializeEngine s).notch = s.notch := rfl
@[simp] theorem initializeEngine_declick : (initializeEngine s).declick = s.declick := rfl
@[simp] theorem initializeEngine_ladder : (initializeEngine s).ladder = s.ladder := rfl
@[simp] theorem initializeEngine_sweptCutoff : (initializeEngine s).sweptCutoff = s.sweptCutoff := rfl
@[simp] theorem initializeEngine_ampEnv : (initializeEngine s).ampEnv = s.ampEnv := rfl
@[simp] theorem initializeEngine_filtEnv : (initializeEngine s).filtEnv = s.filtEnv := rfl
@[simp] theorem initializeEngine_ampMul : (initializeEngine s).ampMul = s.ampMul := rfl
@[simp] theorem initializeEngine_filtMul : (initializeEngine s).filtMul = s.filtMul := rfl
@[simp] theorem initializeEngine_accentActive : (initializeEngine s).accentActive = s.accentActive := rfl
@[simp] theorem initializeEngine_sampleCount : (initializeEngine s).sampleCount = 0#64 := rfl
@[simp] theorem initializeEngine_delayBuf : (initializeEngine s).delayBuf = s.delayBuf := rfl
@[simp] theorem initializeEngine_delayPos : (initializeEngine s).delayPos = s.delayPos := rfl

/-! ## endDecode -/

@[simp] theorem endDecode_config : (endDecode s).config = s.config := rfl
@[simp] theorem endDecode_stage : (endDecode s).stage = .render 0 := rfl
@[simp] theorem endDecode_cursor : (endDecode s).cursor = 0 := rfl
@[simp] theorem endDecode_returned : (endDecode s).returned = s.returned := rfl
@[simp] theorem endDecode_host : (endDecode s).host = s.host := rfl
@[simp] theorem endDecode_cmd : (endDecode s).cmd = s.cmd := rfl
@[simp] theorem endDecode_outL : (endDecode s).outL = s.outL := rfl
@[simp] theorem endDecode_outR : (endDecode s).outR = s.outR := rfl
@[simp] theorem endDecode_notify : (endDecode s).notify = s.notify := rfl
@[simp] theorem endDecode_notifyLen : (endDecode s).notifyLen = s.notifyLen := rfl
@[simp] theorem endDecode_log : (endDecode s).log = s.log := rfl
@[simp] theorem endDecode_params : (endDecode s).params = s.params := rfl
@[simp] theorem endDecode_seq : (endDecode s).seq = s.seq := rfl
@[simp] theorem endDecode_osc : (endDecode s).osc = s.osc := rfl
@[simp] theorem endDecode_hp1 : (endDecode s).hp1 = s.hp1 := rfl
@[simp] theorem endDecode_ap : (endDecode s).ap = s.ap := rfl
@[simp] theorem endDecode_hp2 : (endDecode s).hp2 = s.hp2 := rfl
@[simp] theorem endDecode_notch : (endDecode s).notch = s.notch := rfl
@[simp] theorem endDecode_declick : (endDecode s).declick = s.declick := rfl
@[simp] theorem endDecode_ladder : (endDecode s).ladder = s.ladder := rfl
@[simp] theorem endDecode_sweptCutoff : (endDecode s).sweptCutoff = s.sweptCutoff := rfl
@[simp] theorem endDecode_ampEnv : (endDecode s).ampEnv = s.ampEnv := rfl
@[simp] theorem endDecode_filtEnv : (endDecode s).filtEnv = s.filtEnv := rfl
@[simp] theorem endDecode_ampMul : (endDecode s).ampMul = s.ampMul := rfl
@[simp] theorem endDecode_filtMul : (endDecode s).filtMul = s.filtMul := rfl
@[simp] theorem endDecode_accentActive : (endDecode s).accentActive = s.accentActive := rfl
@[simp] theorem endDecode_sampleCount : (endDecode s).sampleCount = s.sampleCount := rfl
@[simp] theorem endDecode_delayBuf : (endDecode s).delayBuf = s.delayBuf := rfl
@[simp] theorem endDecode_delayPos : (endDecode s).delayPos = s.delayPos := rfl

/-! ## beginProcess -/

@[simp] theorem beginProcess_config (v : U32) : (beginProcess v s).config = s.config := rfl
@[simp] theorem beginProcess_stage (v : U32) : (beginProcess v s).stage = .decode 0 := rfl
@[simp] theorem beginProcess_cursor (v : U32) : (beginProcess v s).cursor = min v.toNat s.config.cmdCap := rfl
@[simp] theorem beginProcess_returned (v : U32) : (beginProcess v s).returned = none := rfl
@[simp] theorem beginProcess_host (v : U32) : (beginProcess v s).host = s.host := rfl
@[simp] theorem beginProcess_cmd (v : U32) : (beginProcess v s).cmd = s.cmd := rfl
@[simp] theorem beginProcess_outL (v : U32) : (beginProcess v s).outL = s.outL := rfl
@[simp] theorem beginProcess_outR (v : U32) : (beginProcess v s).outR = s.outR := rfl
@[simp] theorem beginProcess_notify (v : U32) : (beginProcess v s).notify = s.notify := rfl
@[simp] theorem beginProcess_notifyLen (v : U32) : (beginProcess v s).notifyLen = 0 := rfl
@[simp] theorem beginProcess_log (v : U32) : (beginProcess v s).log = s.log := rfl
@[simp] theorem beginProcess_params (v : U32) : (beginProcess v s).params = s.params := rfl
@[simp] theorem beginProcess_seq (v : U32) : (beginProcess v s).seq = s.seq := rfl
@[simp] theorem beginProcess_osc (v : U32) : (beginProcess v s).osc = s.osc := rfl
@[simp] theorem beginProcess_hp1 (v : U32) : (beginProcess v s).hp1 = s.hp1 := rfl
@[simp] theorem beginProcess_ap (v : U32) : (beginProcess v s).ap = s.ap := rfl
@[simp] theorem beginProcess_hp2 (v : U32) : (beginProcess v s).hp2 = s.hp2 := rfl
@[simp] theorem beginProcess_notch (v : U32) : (beginProcess v s).notch = s.notch := rfl
@[simp] theorem beginProcess_declick (v : U32) : (beginProcess v s).declick = s.declick := rfl
@[simp] theorem beginProcess_ladder (v : U32) : (beginProcess v s).ladder = s.ladder := rfl
@[simp] theorem beginProcess_sweptCutoff (v : U32) : (beginProcess v s).sweptCutoff = s.sweptCutoff := rfl
@[simp] theorem beginProcess_ampEnv (v : U32) : (beginProcess v s).ampEnv = s.ampEnv := rfl
@[simp] theorem beginProcess_filtEnv (v : U32) : (beginProcess v s).filtEnv = s.filtEnv := rfl
@[simp] theorem beginProcess_ampMul (v : U32) : (beginProcess v s).ampMul = s.ampMul := rfl
@[simp] theorem beginProcess_filtMul (v : U32) : (beginProcess v s).filtMul = s.filtMul := rfl
@[simp] theorem beginProcess_accentActive (v : U32) : (beginProcess v s).accentActive = s.accentActive := rfl
@[simp] theorem beginProcess_sampleCount (v : U32) : (beginProcess v s).sampleCount = s.sampleCount := rfl
@[simp] theorem beginProcess_delayBuf (v : U32) : (beginProcess v s).delayBuf = s.delayBuf := rfl
@[simp] theorem beginProcess_delayPos (v : U32) : (beginProcess v s).delayPos = s.delayPos := rfl

/-! ## storeSample -/

@[simp] theorem storeSample_config (i : Nat) (x : F32) : (storeSample i x s).config = s.config := rfl
@[simp] theorem storeSample_stage (i : Nat) (x : F32) : (storeSample i x s).stage = nextStage s.config i := rfl
@[simp] theorem storeSample_cursor (i : Nat) (x : F32) : (storeSample i x s).cursor = s.cursor := rfl
@[simp] theorem storeSample_returned (i : Nat) (x : F32) : (storeSample i x s).returned = returnedAfter i s := rfl
@[simp] theorem storeSample_host (i : Nat) (x : F32) : (storeSample i x s).host = s.host := rfl
@[simp] theorem storeSample_cmd (i : Nat) (x : F32) : (storeSample i x s).cmd = s.cmd := rfl
@[simp] theorem storeSample_outL (i : Nat) (x : F32) : (storeSample i x s).outL = writeSample i x s.outL := by
  simp only [storeSample, convert_self]
@[simp] theorem storeSample_outR (i : Nat) (x : F32) : (storeSample i x s).outR = writeSample i x s.outR := by
  simp only [storeSample, convert_self]
@[simp] theorem storeSample_notify (i : Nat) (x : F32) : (storeSample i x s).notify = s.notify := rfl
@[simp] theorem storeSample_notifyLen (i : Nat) (x : F32) : (storeSample i x s).notifyLen = s.notifyLen := rfl
@[simp] theorem storeSample_log (i : Nat) (x : F32) : (storeSample i x s).log = s.log := rfl
@[simp] theorem storeSample_params (i : Nat) (x : F32) : (storeSample i x s).params = s.params := rfl
@[simp] theorem storeSample_seq (i : Nat) (x : F32) : (storeSample i x s).seq = s.seq := rfl
@[simp] theorem storeSample_osc (i : Nat) (x : F32) : (storeSample i x s).osc = s.osc := rfl
@[simp] theorem storeSample_hp1 (i : Nat) (x : F32) : (storeSample i x s).hp1 = s.hp1 := rfl
@[simp] theorem storeSample_ap (i : Nat) (x : F32) : (storeSample i x s).ap = s.ap := rfl
@[simp] theorem storeSample_hp2 (i : Nat) (x : F32) : (storeSample i x s).hp2 = s.hp2 := rfl
@[simp] theorem storeSample_notch (i : Nat) (x : F32) : (storeSample i x s).notch = s.notch := rfl
@[simp] theorem storeSample_declick (i : Nat) (x : F32) : (storeSample i x s).declick = s.declick := rfl
@[simp] theorem storeSample_ladder (i : Nat) (x : F32) : (storeSample i x s).ladder = s.ladder := rfl
@[simp] theorem storeSample_sweptCutoff (i : Nat) (x : F32) : (storeSample i x s).sweptCutoff = s.sweptCutoff := rfl
@[simp] theorem storeSample_ampEnv (i : Nat) (x : F32) : (storeSample i x s).ampEnv = s.ampEnv := rfl
@[simp] theorem storeSample_filtEnv (i : Nat) (x : F32) : (storeSample i x s).filtEnv = s.filtEnv := rfl
@[simp] theorem storeSample_ampMul (i : Nat) (x : F32) : (storeSample i x s).ampMul = s.ampMul := rfl
@[simp] theorem storeSample_filtMul (i : Nat) (x : F32) : (storeSample i x s).filtMul = s.filtMul := rfl
@[simp] theorem storeSample_accentActive (i : Nat) (x : F32) : (storeSample i x s).accentActive = s.accentActive := rfl
@[simp] theorem storeSample_sampleCount (i : Nat) (x : F32) : (storeSample i x s).sampleCount = s.sampleCount := rfl
@[simp] theorem storeSample_delayBuf (i : Nat) (x : F32) : (storeSample i x s).delayBuf = s.delayBuf := rfl
@[simp] theorem storeSample_delayPos (i : Nat) (x : F32) : (storeSample i x s).delayPos = s.delayPos := rfl

end Sys2Proof.Machine
end

