-- ==== Sys2Proof/Laws/Real.lean ====
section
/-! SUPPORT. The numbers of the decided REAL, the order of the REAL values, and what min, max, clamp and the sanitising of operands give. -/

namespace Sys2Proof.Machine

/-! ## The decided REAL (D7): its numbers written out -/

theorem isNaN_binary32 (a : F32) : isNaN a = decide (0x7F800000 < a.toNat % 2 ^ 31) := rfl

theorem finite_binary32 (a : F32) : finite a = decide (a.toNat % 2 ^ 31 < 0x7F800000) := rfl

theorem orderKey_binary32 (a : F32) :
    orderKey a = if 2 ^ 31 ≤ a.toNat then -((a.toNat % 2 ^ 31 : Nat) : Int) else (a.toNat % 2 ^ 31 : Nat) := rfl

theorem encoded_binary32 (neg : Bool) (mag : Nat) :
    encoded binary32 neg mag = BitVec.ofNat 32 ((if neg then 2 ^ 31 else 0) + mag) := rfl

theorem toNat_lt_binary32 (a : F32) : a.toNat < 2 ^ 32 := a.isLt

/-! ## Order -/

theorem not_isNaN_of_finite {a : F32} (h : finite a = true) : isNaN a = false := by
  simp only [finite_binary32, isNaN_binary32, decide_eq_true_eq, decide_eq_false_iff_not] at *
  omega

theorem flt_iff {a b : F32} :
    flt a b = true ↔ isNaN a = false ∧ isNaN b = false ∧ orderKey a < orderKey b := by
  simp [flt, and_assoc]

theorem fle_iff {a b : F32} :
    fle a b = true ↔ isNaN a = false ∧ isNaN b = false ∧ orderKey a ≤ orderKey b := by
  simp [fle, and_assoc]

theorem fle_of_flt {a b : F32} (h : flt a b = true) : fle a b = true := by
  rw [flt_iff] at h
  rw [fle_iff]
  exact ⟨h.1, h.2.1, le_of_lt h.2.2⟩

theorem fle_trans {a b c : F32} (h : fle a b = true) (k : fle b c = true) : fle a c = true := by
  rw [fle_iff] at *
  exact ⟨h.1, k.2.1, le_trans h.2.2 k.2.2⟩

/-- Of two values that compare, one is less or equal. -/
theorem fle_or_flt {a b : F32} (ha : isNaN a = false) (hb : isNaN b = false) :
    fle a b = true ∨ flt b a = true := by
  rw [fle_iff, flt_iff]
  by_cases h : orderKey a ≤ orderKey b
  · exact .inl ⟨ha, hb, h⟩
  · exact .inr ⟨hb, ha, lt_of_not_ge h⟩

theorem not_fle_of_flt {a b : F32} (h : flt a b = true) : fle b a = false := by
  rw [flt_iff] at h
  rw [Bool.eq_false_iff, Ne, fle_iff]
  exact fun k => absurd k.2.2 (not_le_of_gt h.2.2)

theorem fmin_eq {a b : F32} (ha : isNaN a = false) (hb : isNaN b = false) :
    fmin a b = if orderKey b < orderKey a then b else a := by
  simp [fmin, ha, hb]

theorem fmax_eq {a b : F32} (ha : isNaN a = false) (hb : isNaN b = false) :
    fmax a b = if orderKey a < orderKey b then b else a := by
  simp [fmax, ha, hb]

/-- `min` returns an operand (R12). -/
theorem fmin_operand (a b : F32) : fmin a b = a ∨ fmin a b = b := by
  simp only [fmin]
  split_ifs <;> simp

/-- `max` returns an operand (R12). -/
theorem fmax_operand (a b : F32) : fmax a b = a ∨ fmax a b = b := by
  simp only [fmax]
  split_ifs <;> simp

/-- A value inside the range is stored as it stands. -/
theorem fclamp_of_inside {v lo hi : F32} (h : fle lo v = true) (k : fle v hi = true) : fclamp v lo hi = v := by
  rw [fle_iff] at h k
  rw [fclamp, fmax_eq h.2.1 h.1, if_neg (not_lt_of_ge h.2.2), fmin_eq k.1 k.2.1, if_neg (not_lt_of_ge k.2.2)]

/-- A value below the range is stored as its lower end. -/
theorem fclamp_of_below {v lo hi : F32} (h : flt v lo = true) (k : fle lo hi = true) : fclamp v lo hi = lo := by
  rw [flt_iff] at h
  rw [fle_iff] at k
  rw [fclamp, fmax_eq h.1 h.2.1, if_pos h.2.2, fmin_eq k.1 k.2.1, if_neg (not_lt_of_ge k.2.2)]

/-- A value above the range is stored as its upper end. -/
theorem fclamp_of_above {v lo hi : F32} (h : flt hi v = true) (k : fle lo hi = true) : fclamp v lo hi = hi := by
  rw [flt_iff] at h
  rw [fle_iff] at k
  have : ¬ orderKey v < orderKey lo := by omega
  rw [fclamp, fmax_eq h.2.1 k.1, if_neg this, fmin_eq h.2.1 h.1, if_pos h.2.2]

/-- What a clamp of a finite value gives: it lies in the range. -/
theorem fclamp_inRange {v lo hi : F32} (hv : finite v = true) (hlo : finite lo = true) (hhi : finite hi = true)
    (h : fle lo hi = true) : inRange lo hi (fclamp v lo hi) := by
  have nv := not_isNaN_of_finite hv
  have nlo := not_isNaN_of_finite hlo
  have nhi := not_isNaN_of_finite hhi
  have rlo : fle lo lo = true := fle_iff.mpr ⟨nlo, nlo, le_rfl⟩
  have rhi : fle hi hi = true := fle_iff.mpr ⟨nhi, nhi, le_rfl⟩
  rcases fle_or_flt nlo nv with hl | hl
  · rcases fle_or_flt nv nhi with hh | hh
    · rw [fclamp_of_inside hl hh]
      exact ⟨hv, hl, hh⟩
    · rw [fclamp_of_above hh h]
      exact ⟨hhi, h, rhi⟩
  · rw [fclamp_of_below hl h]
    exact ⟨hlo, rlo, h⟩

/-- A register that held a legal value holds one after a sanitised write (R25). -/
theorem sanitise_inRange {lo hi old v : F32} (hlo : finite lo = true) (hhi : finite hi = true)
    (h : fle lo hi = true) (hold : inRange lo hi old) : inRange lo hi (sanitise lo hi old v) := by
  simp only [sanitise]
  split
  · rw [convert_self]
    exact fclamp_inRange ‹_› hlo hhi h
  · exact hold

/-- An accepted tempo operand is finite and positive (R181). -/
theorem badTempo_eq_false {v : F32} : badTempo v = false ↔ finite v = true ∧ flt fzero v = true := by
  simp only [badTempo, Bool.or_eq_false_iff, Bool.not_eq_false']
  refine and_congr_right fun hv => ⟨fun h => ?_, not_fle_of_flt⟩
  rcases fle_or_flt (not_isNaN_of_finite hv) (show isNaN (fzero : F32) = false by decide) with k | k
  · exact absurd k (by simp [h])
  · exact k

/-- The REAL `1` and the end values of the register ranges are finite and in order. -/
theorem range_ends :
    finite (fzero : F32) = true ∧ finite (fone : F32) = true ∧
    finite (fnat 60000 : F32) = true ∧ finite (fnat 1000000 : F32) = true ∧
    fle (fzero : F32) fone = true ∧ fle (fone : F32) (fnat 500) = true ∧ fle fone (fnat 60000 : F32) = true ∧
    fle (fzero : F32) (fnat 1000000) = true ∧ flt (fzero : F32) (fnat 1000000) = true := by
  decide +kernel

/-- The tempo register keeps its legal values (R24, R181). -/
theorem sanitiseTempo_legal {old v : F32} (h : inRange fzero (fnat 1000000) old) (k : flt fzero old = true) :
    inRange fzero (fnat 1000000) (sanitiseTempo old v) ∧ flt fzero (sanitiseTempo old v) = true := by
  simp only [sanitiseTempo, convert_self]
  split
  · exact ⟨h, k⟩
  · rename_i hv
    obtain ⟨hf, hp⟩ := badTempo_eq_false.mp (by simpa using hv)
    have nv := not_isNaN_of_finite hf
    have nm : isNaN (fnat 1000000 : F32) = false := by decide +kernel
    rw [fmin_eq nv nm]
    split
    · decide +kernel
    · rename_i hlt
      exact ⟨⟨hf, fle_of_flt hp, fle_iff.mpr ⟨nv, nm, not_lt.mp hlt⟩⟩, hp⟩

end Sys2Proof.Machine
end

