-- ==== Sys2Proof/Laws/Memory.lean ====
section
/-! SUPPORT. The laws of the memory operations: read after write, and that every write keeps the canonical form and the region's bounds. -/

namespace Sys2Proof.Machine

variable {w : Nat}

theorem memRead_eq_zero_of_lt {m : Memory w} {a : Nat} (h : ∀ c ∈ m, a < c.1) : memRead m a = 0 := by
  induction m with
  | nil => rfl
  | cons c m ih =>
    have hc : c.1 ≠ a := Nat.ne_of_gt (h c (by simp))
    simp only [memRead, hc, if_false]
    exact ih fun d hd => h d (by simp [hd])

theorem Memory.wf_cons {c : Nat × BitVec w} {m : Memory w} :
    Memory.wf (c :: m) ↔ (∀ d ∈ m, c.1 < d.1) ∧ c.2 ≠ 0 ∧ Memory.wf m := by
  simp only [Memory.wf, List.pairwise_cons, List.mem_cons, forall_eq_or_imp]
  tauto

/-- A write changes no other place. -/
theorem memRead_memWrite_other {m : Memory w} {a b : Nat} (v : BitVec w) (h : b ≠ a) :
    memRead (memWrite a v m) b = memRead m b := by
  induction m with
  | nil =>
    simp only [memWrite]
    split <;> simp [memRead, Ne.symm h]
  | cons c m ih =>
    simp only [memWrite]
    split
    · simp only [memRead, ih]
    · by_cases hc : c.1 = a <;> by_cases hv : v = 0 <;> simp_all [memRead, Ne.symm h]

/-- A read after a write to the same place gives what was written. -/
theorem memRead_memWrite_same {m : Memory w} (hm : m.wf) (a : Nat) (v : BitVec w) :
    memRead (memWrite a v m) a = v := by
  induction m with
  | nil =>
    simp only [memWrite]
    split <;> simp_all [memRead]
  | cons c m ih =>
    obtain ⟨hlt, -, hm'⟩ := Memory.wf_cons.mp hm
    simp only [memWrite]
    split
    · rename_i hca
      simp only [memRead, Nat.ne_of_lt hca, if_false]
      exact ih hm'
    · rename_i hca
      by_cases hv : v = 0
      · simp only [hv, if_true]
        by_cases hc : c.1 = a
        · simp only [hc, if_true]
          exact memRead_eq_zero_of_lt fun d hd => hc ▸ hlt d hd
        · simp only [hc, if_false]
          refine memRead_eq_zero_of_lt fun d hd => ?_
          rcases List.mem_cons.mp hd with rfl | hd
          · omega
          · have := hlt d hd
            omega
      · simp only [hv, if_false, memRead, if_true]

/-- Every cell of a written memory is an old one or the written one. -/
theorem mem_memWrite {m : Memory w} {a : Nat} {v : BitVec w} {d : Nat × BitVec w}
    (h : d ∈ memWrite a v m) : d ∈ m ∨ (d = (a, v) ∧ v ≠ 0) := by
  induction m with
  | nil =>
    simp only [memWrite] at h
    split at h <;> simp_all
  | cons c m ih =>
    simp only [memWrite] at h
    split at h
    · rcases List.mem_cons.mp h with rfl | h
      · simp
      · rcases ih h with h | h
        · simp [h]
        · exact .inr h
    · by_cases hc : c.1 = a <;> by_cases hv : v = 0 <;> simp only [hc, hv, if_true, if_false] at h
      · exact .inl (by simp [h])
      · rcases List.mem_cons.mp h with rfl | h
        · exact .inr ⟨rfl, hv⟩
        · exact .inl (by simp [h])
      · exact .inl h
      · rcases List.mem_cons.mp h with rfl | h
        · exact .inr ⟨rfl, hv⟩
        · exact .inl h

/-- A write keeps the canonical form. -/
theorem memWrite_wf {m : Memory w} (hm : m.wf) (a : Nat) (v : BitVec w) : (memWrite a v m).wf := by
  induction m with
  | nil =>
    simp only [memWrite]
    split <;> simp_all [Memory.wf]
  | cons c m ih =>
    obtain ⟨hlt, hc0, hm'⟩ := Memory.wf_cons.mp hm
    simp only [memWrite]
    split
    · rename_i hca
      refine Memory.wf_cons.mpr ⟨fun d hd => ?_, hc0, ih hm'⟩
      rcases mem_memWrite hd with hd | ⟨rfl, -⟩
      · exact hlt d hd
      · exact hca
    · rename_i hca
      by_cases hc : c.1 = a <;> by_cases hv : v = 0 <;> simp only [hc, hv, if_true, if_false]
      · exact hm'
      · exact Memory.wf_cons.mpr ⟨fun d hd => hc ▸ hlt d hd, hv, hm'⟩
      · exact hm
      · refine Memory.wf_cons.mpr ⟨fun d hd => ?_, hv, hm⟩
        rcases List.mem_cons.mp hd with rfl | hd
        · show a < d.1
          omega
        · have := hlt d hd
          show a < d.1
          omega

/-- A write inside a region keeps the memory inside it. -/
theorem memWrite_within {m : Memory w} {size a : Nat} (hm : m.Within size) (ha : a < size) (v : BitVec w) :
    (memWrite a v m).Within size :=
  ⟨memWrite_wf hm.canonical a v, fun d hd => by
    rcases mem_memWrite hd with hd | ⟨rfl, -⟩
    · exact hm.inside d hd
    · exact ha⟩

/-- A run of bytes written inside a region keeps the memory inside it. -/
theorem memWriteBytes_within {size : Nat} (bs : List U8) :
    ∀ (m : Memory 8) (a : Nat), m.Within size → a + bs.length ≤ size → (memWriteBytes a bs m).Within size := by
  induction bs with
  | nil => intro m a hm _; exact hm
  | cons b bs ih =>
    intro m a hm ha
    simp only [List.length_cons] at ha
    exact ih _ _ (memWrite_within hm (by omega) b) (by omega)

/-- A run of bytes changes no place outside it. -/
theorem memRead_memWriteBytes_other (bs : List U8) :
    ∀ (m : Memory 8) (a b : Nat), (b < a ∨ a + bs.length ≤ b) →
      memRead (memWriteBytes a bs m) b = memRead m b := by
  induction bs with
  | nil => intros; rfl
  | cons c bs ih =>
    intro m a b h
    simp only [List.length_cons] at h
    rw [memWriteBytes, ih _ _ _ (by omega), memRead_memWrite_other _ (by omega)]

/-- A run of bytes reads back. -/
theorem memRead_memWriteBytes_same (bs : List U8) :
    ∀ (m : Memory 8) (a k : Nat), m.wf → (hk : k < bs.length) →
      memRead (memWriteBytes a bs m) (a + k) = bs[k] := by
  induction bs with
  | nil => intro _ _ k _ hk; simp at hk
  | cons c bs ih =>
    intro m a k hm hk
    cases k with
    | zero =>
      rw [memWriteBytes, memRead_memWriteBytes_other _ _ _ _ (by omega)]
      exact memRead_memWrite_same hm a c
    | succ k =>
      simp only [List.length_cons] at hk
      have := ih (memWrite a c m) (a + 1) k (memWrite_wf hm a c) (by omega)
      simpa [memWriteBytes, Nat.add_assoc, Nat.add_comm 1 k] using this

/-- The four bytes of a word, put together again. -/
theorem le32_bytes (u : U32) :
    le32 (u.extractLsb' 0 8) (u.extractLsb' 8 8) (u.extractLsb' 16 8) (u.extractLsb' 24 8) = u := by
  apply BitVec.eq_of_getLsbD_eq
  intro i hi
  simp only [le32, BitVec.getLsbD_append, BitVec.getLsbD_extractLsb']
  split
  · simp_all
  · split
    · simp only [show i - 8 < 8 by omega, decide_true, Bool.true_and]
      congr 1
      omega
    · split
      · simp only [show i - 8 - 8 < 8 by omega, decide_true, Bool.true_and]
        congr 1
        omega
      · simp only [show i - 8 - 8 - 8 < 8 by omega, decide_true, Bool.true_and]
        congr 1
        omega

/-- The bytes of the word that four bytes make are those bytes. -/
theorem bytesOf32_le32 (b0 b1 b2 b3 : U8) : bytesOf32 (le32 b0 b1 b2 b3) = [b0, b1, b2, b3] := by
  simp only [bytesOf32, le32, List.cons.injEq, and_true]
  refine ⟨?_, ?_, ?_, ?_⟩ <;> (apply BitVec.eq_of_getLsbD_eq; intro i hi) <;>
    simp only [BitVec.getLsbD_extractLsb', BitVec.getLsbD_append, hi, decide_true, Bool.true_and]
  · rw [if_pos (by omega)]
    congr 1
    omega
  · rw [if_neg (by omega), if_pos (by omega)]
    congr 1
    omega
  · rw [if_neg (by omega), if_neg (by omega), if_pos (by omega)]
    congr 1
    omega
  · rw [if_neg (by omega), if_neg (by omega), if_neg (by omega)]
    congr 1
    omega

/-- A stored sample reads back (R84). -/
theorem readSample_writeSample_same {m : Memory 8} (hm : m.wf) (i : Nat) (x : F32) :
    readSample (writeSample i x m) i = x := by
  have h (k : Nat) (hk : k < 4) :=
    memRead_memWriteBytes_same (bytesOf32 x) m (4 * i) k hm (by simpa [bytesOf32] using hk)
  have h0 := h 0 (by omega)
  have h1 := h 1 (by omega)
  have h2 := h 2 (by omega)
  have h3 := h 3 (by omega)
  simp only [bytesOf32, Nat.add_zero, List.getElem_cons_zero, List.getElem_cons_succ] at h0 h1 h2 h3
  simp only [readSample, writeSample, bytesOf32, h0, h1, h2, h3]
  exact le32_bytes x

/-- Storing a sample leaves the other samples alone. -/
theorem readSample_writeSample_other (m : Memory 8) {i j : Nat} (h : j ≠ i) (x : F32) :
    readSample (writeSample i x m) j = readSample m j := by
  have hb : (bytesOf32 x).length = 4 := rfl
  simp only [readSample, writeSample]
  rw [memRead_memWriteBytes_other _ _ _ _ (by omega), memRead_memWriteBytes_other _ _ _ _ (by omega),
    memRead_memWriteBytes_other _ _ _ _ (by omega), memRead_memWriteBytes_other _ _ _ _ (by omega)]

/-- Storing a sample of the block keeps an output region inside its bounds. -/
theorem writeSample_within {c : EngineConfig binary32} {m : Memory 8} (hm : m.Within (outBytes c)) {i : Nat}
    (hi : i < c.blockLen) (x : F32) : (writeSample i x m).Within (outBytes c) := by
  refine memWriteBytes_within _ _ _ hm ?_
  simp only [bytesOf32, List.length_cons, List.length_nil, outBytes] at *
  omega

end Sys2Proof.Machine
end

