-- ==== Sys2Proof/Laws/Sequence.lean ====
section
/-! SUPPORT. What one advance of the sequencer can do (41_sequencer.md R170), and that every operation on it keeps its legal values. -/

namespace Sys2Proof.Machine

/-- A step length is at least 1 (R171). -/
theorem one_le_stepLengthOf (c : EngineConfig binary32) (t : F32) : 1 ≤ (stepLengthOf c t).toNat := by
  simp only [stepLengthOf]
  split
  · decide
  · rename_i h
    by_contra hc
    exact h (BitVec.eq_of_toNat_eq (by simpa using hc))

/-- The move to the next step writes the position and the current pattern only. -/
theorem seqMove_frame (q : Sequencer) :
    (seqMove q).running = q.running ∧ (seqMove q).counter = q.counter ∧
    (seqMove q).stepLength = q.stepLength ∧ (seqMove q).nextPattern = q.nextPattern ∧
    (seqMove q).patterns = q.patterns := by
  simp only [seqMove]
  split <;> simp

/-- The two ways a move can go (R170, R174). -/
theorem seqMove_cases (q : Sequencer) :
    (q.position.val + 1 < (activePattern q).length.val ∧
      (seqMove q).position.val = q.position.val + 1 ∧ (seqMove q).currentPattern = q.currentPattern) ∨
    ((activePattern q).length.val ≤ q.position.val + 1 ∧
      (seqMove q).position.val = 0 ∧ (seqMove q).currentPattern = q.nextPattern) := by
  simp only [seqMove]
  split
  · exact .inl ⟨‹_›, rfl, rfl⟩
  · exact .inr ⟨by omega, rfl, rfl⟩

/-- Inside a pattern, a move goes to the next position. -/
theorem seqMove_inside {q : Sequencer} {p : Fin Config.maxSteps} (hp : p.val = q.position.val + 1)
    (h : p.val < (activePattern q).length.val) : seqMove q = { q with position := p } := by
  have : (⟨q.position.val + 1, hp ▸ p.isLt⟩ : Fin Config.maxSteps) = p := Fin.ext hp.symm
  rw [seqMove, dif_pos (hp ▸ h), this]

/-- At the end of a pattern, a move goes to position 0 of the queued pattern (R174). -/
theorem seqMove_wrap {q : Sequencer} (h : (activePattern q).length.val ≤ q.position.val + 1) :
    seqMove q = { q with position := ⟨0, by decide⟩, currentPattern := q.nextPattern } := by
  rw [seqMove, dif_neg (Nat.not_lt.mpr h)]

/-- What one advance can do: nothing while stopped, a count, or a step boundary (R170, R173). -/
theorem seqAdvance_cases (c : EngineConfig binary32) (tempo : F32) (q : Sequencer) :
    (q.running = false ∧ seqAdvance c tempo q = (q, none)) ∨
    (q.running = true ∧ q.counter.toNat + 1 < q.stepLength.toNat ∧
      seqAdvance c tempo q = ({ q with counter := q.counter + 1#32 }, none)) ∨
    (q.running = true ∧ q.stepLength.toNat ≤ q.counter.toNat + 1 ∧
      seqAdvance c tempo q =
        (seqBoundary c tempo q, some ((seqBoundary c tempo q).position, activeStep (seqBoundary c tempo q)))) := by
  by_cases hr : q.running = true
  · by_cases hc : q.counter.toNat + 1 < q.stepLength.toNat
    · exact .inr (.inl ⟨hr, hc, by simp [seqAdvance, hr, hc]⟩)
    · exact .inr (.inr ⟨hr, by omega, by simp [seqAdvance, hr, hc]⟩)
  · exact .inl ⟨by simpa using hr, by simp [seqAdvance, hr]⟩

/-- A step boundary restarts the counter and computes the next step's length (R170, R175). -/
theorem seqBoundary_frame (c : EngineConfig binary32) (tempo : F32) (q : Sequencer) :
    (seqBoundary c tempo q).running = q.running ∧ (seqBoundary c tempo q).counter = 0#32 ∧
    (seqBoundary c tempo q).stepLength = stepLengthOf c tempo ∧
    (seqBoundary c tempo q).nextPattern = q.nextPattern ∧ (seqBoundary c tempo q).patterns = q.patterns :=
  seqMove_frame _

/-- The two ways a step boundary can go (R170, R174). -/
theorem seqBoundary_cases (c : EngineConfig binary32) (tempo : F32) (q : Sequencer) :
    (q.position.val + 1 < (activePattern q).length.val ∧
      (seqBoundary c tempo q).position.val = q.position.val + 1 ∧
      (seqBoundary c tempo q).currentPattern = q.currentPattern) ∨
    ((activePattern q).length.val ≤ q.position.val + 1 ∧
      (seqBoundary c tempo q).position.val = 0 ∧ (seqBoundary c tempo q).currentPattern = q.nextPattern) :=
  seqMove_cases { q with counter := 0#32, stepLength := stepLengthOf c tempo }

/-- A count below the step length does not wrap. -/
theorem counter_add_one {q : Sequencer} (h : q.counter.toNat + 1 < q.stepLength.toNat) :
    (q.counter + 1#32).toNat = q.counter.toNat + 1 := by
  have := q.stepLength.isLt
  rw [BitVec.toNat_add]
  simp only [BitVec.toNat_ofNat]
  omega

/-- An advance keeps the sequencer legal (R176). -/
theorem seqAdvance_legal (c : EngineConfig binary32) (tempo : F32) {q : Sequencer} (h : q.Legal c) :
    (seqAdvance c tempo q).1.Legal c := by
  rcases seqAdvance_cases c tempo q with ⟨-, e⟩ | ⟨-, hc, e⟩ | ⟨-, -, e⟩ <;> rw [e]
  · exact h
  · exact ⟨h.bank, h.length, h.currentPattern, h.nextPattern, h.stepLength, by rw [counter_add_one hc]; exact hc⟩
  · obtain ⟨-, hc, hs, hn, hp⟩ := seqBoundary_frame c tempo q
    have h1 := one_le_stepLengthOf c tempo
    refine ⟨by rw [hp]; exact h.bank, by rw [hp]; exact h.length, ?_, by rw [hn]; exact h.nextPattern,
      by rw [hs]; exact h1, by rw [hc, hs]; exact h1⟩
    rcases seqBoundary_cases c tempo q with ⟨-, -, e⟩ | ⟨-, -, e⟩ <;> rw [e]
    · exact h.currentPattern
    · exact h.nextPattern

/-- A start keeps the sequencer legal (R180). -/
theorem seqStart_legal (c : EngineConfig binary32) (tempo : F32) {q : Sequencer} (h : q.Legal c) :
    (seqStart c tempo q).Legal c := by
  have h1 := one_le_stepLengthOf c tempo
  refine ⟨h.bank, h.length, h.currentPattern, h.nextPattern, h1, ?_⟩
  simp only [seqStart, BitVec.toNat_sub, BitVec.toNat_ofNat]
  have := (stepLengthOf c tempo).isLt
  omega

/-- An index of the bank names a pattern of it. -/
theorem patternAt_mem {q : Sequencer} {p : Nat} (h : p < q.patterns.length) : patternAt q p ∈ q.patterns := by
  rw [patternAt, List.getD_eq_getElem _ _ h]
  exact List.getElem_mem h

/-- What a legal sequencer's active pattern is: one of the bank, of a length from 1 to 16. -/
theorem one_le_activePattern_length {c : EngineConfig binary32} {q : Sequencer} (h : q.Legal c) :
    1 ≤ (activePattern q).length.val :=
  h.length _ (patternAt_mem (h.bank ▸ h.currentPattern))

/-- One pattern replaced: it is the new one, and every other is kept. -/
theorem patternAt_set {q : Sequencer} {p : Nat} (h : p < q.patterns.length) (x : Pattern) (p' : Nat) :
    patternAt { q with patterns := q.patterns.set p x } p' = if p' = p then x else patternAt q p' := by
  simp only [patternAt, List.getD_eq_getElem?_getD, List.getElem?_set]
  by_cases e : p = p'
  · simp [← e, h]
  · simp [e, Ne.symm e]

/-- A slot replaced in one pattern (R182). -/
theorem patternAt_setStepSlot {q : Sequencer} {p : Nat} (h : p < q.patterns.length) (i : Fin Config.maxSteps)
    (st : Step) (p' : Nat) :
    patternAt (setStepSlot p i st q) p' =
      if p' = p then { patternAt q p with steps := (patternAt q p).steps.set i st } else patternAt q p' :=
  patternAt_set h _ p'

/-- A length set in one pattern (R183). -/
theorem patternAt_setLength {q : Sequencer} {p : Nat} (h : p < q.patterns.length) (n : Fin (Config.maxSteps + 1))
    (p' : Nat) :
    patternAt (setLength p n q) p' = if p' = p then { patternAt q p with length := n } else patternAt q p' :=
  patternAt_set h _ p'

/-- A pattern with a length of at least 1 replaces one of the bank: the sequencer stays legal. -/
theorem set_pattern_legal {c : EngineConfig binary32} {q : Sequencer} (h : q.Legal c) (p : Nat) {x : Pattern}
    (hx : p < q.patterns.length → 1 ≤ x.length.val) : ({ q with patterns := q.patterns.set p x } : Sequencer).Legal c := by
  refine ⟨by rw [List.length_set]; exact h.bank, fun y hy => ?_, h.currentPattern, h.nextPattern, h.stepLength,
    h.counter⟩
  rcases Nat.lt_or_ge p q.patterns.length with hp | hp
  · rcases List.mem_or_eq_of_mem_set hy with hy | rfl
    · exact h.length y hy
    · exact hx hp
  · rw [List.set_eq_of_length_le hp] at hy
    exact h.length y hy

theorem setStepSlot_legal {c : EngineConfig binary32} {q : Sequencer} (h : q.Legal c) (p : Nat) (i : Fin Config.maxSteps)
    (st : Step) : (setStepSlot p i st q).Legal c :=
  set_pattern_legal h p fun hp => h.length (patternAt q p) (patternAt_mem hp)

theorem setLength_legal {c : EngineConfig binary32} {q : Sequencer} (h : q.Legal c) (p : Nat) {n : Fin (Config.maxSteps + 1)}
    (hn : 1 ≤ n.val) : (setLength p n q).Legal c :=
  set_pattern_legal h p fun _ => hn

/-- A run is a run of its first advances and then of the others. -/
theorem seqRun_append (c : EngineConfig binary32) (tempo : F32) (m n : Nat) (q : Sequencer) :
    seqRun c tempo (m + n) q =
      ((seqRun c tempo n (seqRun c tempo m q).1).1, (seqRun c tempo m q).2 ++ (seqRun c tempo n (seqRun c tempo m q).1).2) := by
  induction m generalizing q with
  | zero => simp [seqRun]
  | succ m ih =>
    rw [Nat.add_right_comm, seqRun, ih]
    simp [seqRun]

/-- Inside a step, a running sequencer only counts (R170). -/
theorem seqRun_inside_step (c : EngineConfig binary32) (tempo : F32) (n : Nat) {q : Sequencer} (hr : q.running = true)
    (hc : q.counter.toNat + n < q.stepLength.toNat) :
    seqRun c tempo n q = ({ q with counter := q.counter + BitVec.ofNat 32 n }, []) := by
  induction n generalizing q with
  | zero => simp [seqRun]
  | succ n ih =>
    have hs := q.stepLength.isLt
    have hcc : (q.counter + 1#32).toNat = q.counter.toNat + 1 := by
      simp only [BitVec.toNat_add, BitVec.toNat_ofNat]
      omega
    have ha : seqAdvance c tempo q = ({ q with counter := q.counter + 1#32 }, none) := by
      simp only [seqAdvance, hr, if_true]
      rw [if_pos (by omega)]
    rw [seqRun, ha]
    simp only
    rw [ih (q := { q with counter := q.counter + 1#32 }) hr (by simp only; omega)]
    have : q.counter + 1#32 + BitVec.ofNat 32 n = q.counter + BitVec.ofNat 32 (n + 1) := by
      apply BitVec.eq_of_toNat_eq
      simp only [BitVec.toNat_add, BitVec.toNat_ofNat]
      omega
    simp [this]

/-- A whole step from a restarted counter: the boundary, with its one event (R170). -/
theorem seqRun_whole_step (c : EngineConfig binary32) (tempo : F32) {q : Sequencer} (hr : q.running = true) (hc : q.counter = 0#32)
    (hL : 1 ≤ q.stepLength.toNat) :
    ∃ k, seqRun c tempo q.stepLength.toNat q =
      (seqBoundary c tempo { q with counter := k },
        [((seqBoundary c tempo { q with counter := k }).position,
          activeStep (seqBoundary c tempo { q with counter := k }))]) := by
  obtain ⟨m, hm⟩ : ∃ m, q.stepLength.toNat = m + 1 := ⟨_, (Nat.sub_add_cancel hL).symm⟩
  have hs := q.stepLength.isLt
  have h0 : q.counter.toNat = 0 := by rw [hc]; rfl
  have hcount : (q.counter + BitVec.ofNat 32 m).toNat = m := by
    simp only [BitVec.toNat_add, BitVec.toNat_ofNat]
    omega
  refine ⟨q.counter + BitVec.ofNat 32 m, ?_⟩
  rw [hm, seqRun_append, seqRun_inside_step c tempo m hr (by omega)]
  simp only [seqRun, seqAdvance, hr, if_true, hcount]
  rw [if_neg (by omega)]
  simp

end Sys2Proof.Machine
end

