-- ==== Sys2Proof/Laws/Exec.lean ====
section
/-! SUPPORT. What an instruction can do (40_decoder.md R151, 60_exceptions.md R433) and what a notification can do (46_voice.md R394), each said once. -/

namespace Sys2Proof.Machine

/-- The shapes of an instruction's effect: a skip, one group of registers, one log record, or parameter
registers with a redesign of the ladder. -/
inductive ExecShape (s : State) : State → Prop where
  | skip : ExecShape s s
  | params (f : Params binary32 → Params binary32) : ExecShape s (updateParams f s)
  | seq (f : Sequencer → Sequencer) : ExecShape s (updateSeq f s)
  | logged (k : LogKind) (u : U32) (hk : k ≠ .notifyOverflow) : ExecShape s (logSkip k u s)
  | redesigned (f : Params binary32 → Params binary32) : ExecShape s (redesignLadder (updateParams f s))

/-- Every instruction answers a next state of one of these shapes. -/
theorem exec_shape (i : Instr) (s : State) : ∃ t, exec i s = .next t ∧ ExecShape s t := by
  cases i with
  | nop => exact ⟨s, rfl, .skip⟩
  | setWaveform u =>
    simp only [exec, execSetWaveform]
    split
    · exact ⟨_, rfl, .logged _ _ (by decide)⟩
    · exact ⟨_, rfl, .params _⟩
  | setRunning u =>
    simp only [exec, execSetRunning]
    split
    · exact ⟨_, rfl, .seq _⟩
    · split
      · exact ⟨s, rfl, .skip⟩
      · exact ⟨_, rfl, .seq _⟩
  | setStep u =>
    simp only [exec, execSetStep]
    split
    · exact ⟨_, rfl, .logged _ _ (by decide)⟩
    · exact ⟨_, rfl, .seq _⟩
  | setPatternLength u =>
    simp only [exec, execSetPatternLength]
    split
    · exact ⟨_, rfl, .logged _ _ (by decide)⟩
    · exact ⟨_, rfl, .seq _⟩
  | setNextPattern u =>
    simp only [exec, execSetNextPattern]
    split
    · exact ⟨_, rfl, .logged _ _ (by decide)⟩
    · exact ⟨_, rfl, .seq _⟩
  | setCutoff v =>
    simp only [exec, execSetCutoff]
    split
    · exact ⟨_, rfl, .redesigned _⟩
    · exact ⟨s, rfl, .skip⟩
  | setResonance v =>
    simp only [exec, execSetResonance]
    split
    · exact ⟨_, rfl, .redesigned _⟩
    · exact ⟨s, rfl, .skip⟩
  | setEnvMod v =>
    simp only [exec, execSetEnvMod]
    split
    · exact ⟨_, rfl, .redesigned _⟩
    · exact ⟨s, rfl, .skip⟩
  | setDelayLength _ => exact ⟨_, rfl, .params _⟩
  | setDecay _ => exact ⟨_, rfl, .params _⟩
  | setAccent _ => exact ⟨_, rfl, .params _⟩
  | setDistortionShape _ => exact ⟨_, rfl, .params _⟩
  | setDistortionThreshold _ => exact ⟨_, rfl, .params _⟩
  | setDelaySend _ => exact ⟨_, rfl, .params _⟩
  | setDelayFeedback _ => exact ⟨_, rfl, .params _⟩
  | setTempo _ => exact ⟨_, rfl, .params _⟩
  | stepChanged _ => exact ⟨s, rfl, .skip⟩

/-- What a notification can do: append five bytes, or log that the stream is full (R394). -/
theorem pushNotify_cases (p : Fin Config.maxSteps) (s : State) :
    (s.notifyLen + 5 ≤ s.config.notifyCap ∧ pushNotify p s =
      { s with
        notify := memWriteBytes s.notifyLen (encode (.stepChanged (BitVec.ofNat 32 p.val))) s.notify
        notifyLen := s.notifyLen + 5 }) ∨
    (s.config.notifyCap < s.notifyLen + 5 ∧
      pushNotify p s = logSkip .notifyOverflow (BitVec.ofNat 32 p.val) s) := by
  simp only [pushNotify]
  split
  · exact .inl ⟨‹_›, rfl⟩
  · exact .inr ⟨by omega, rfl⟩

end Sys2Proof.Machine
end

