-- ==== Sys2Proof/Laws/NaN.lean ====
section
/-! SUPPORT. NaN propagation (00_scope.md R12): an arithmetic operation on a NaN gives a NaN, whichever (I23). -/

namespace Sys2Proof.Machine

/-- What stands for a NaN is one. -/
theorem isNaN_someNaN (v : F32) : isNaN (someNaN v) = true := by
  unfold someNaN
  split
  · assumption
  · decide

/-- Rounding the result "NaN" gives a NaN. -/
theorem isNaN_roundReal_nan (op : Config.RealOp) (a b : F32) : isNaN (roundReal op a b .nan) = true := by
  simp only [roundReal, rounded, nanResult]
  exact isNaN_someNaN _

/-- A NaN is unpacked as one. -/
theorem datum_of_isNaN {F : Format} {a : REAL F} (h : isNaN a = true) : datum a = .nan := by
  simp only [isNaN, decide_eq_true_eq] at h
  simp only [datum, unpack, h, if_true]

theorem isNaN_fadd_left {a : F32} (b : F32) (h : isNaN a = true) : isNaN (fadd a b) = true := by
  unfold fadd
  rw [datum_of_isNaN h]
  exact isNaN_roundReal_nan _ _ _

theorem isNaN_fadd_right (a : F32) {b : F32} (h : isNaN b = true) : isNaN (fadd a b) = true := by
  unfold fadd
  rw [datum_of_isNaN h]
  cases datum a <;> exact isNaN_roundReal_nan _ _ _

theorem isNaN_fsub_left {a : F32} (b : F32) (h : isNaN a = true) : isNaN (fsub a b) = true := by
  unfold fsub
  rw [datum_of_isNaN h]
  exact isNaN_roundReal_nan _ _ _

theorem isNaN_fsub_right (a : F32) {b : F32} (h : isNaN b = true) : isNaN (fsub a b) = true := by
  unfold fsub
  rw [datum_of_isNaN h]
  cases datum a <;> exact isNaN_roundReal_nan _ _ _

theorem isNaN_fmul_left {a : F32} (b : F32) (h : isNaN a = true) : isNaN (fmul a b) = true := by
  unfold fmul
  rw [datum_of_isNaN h]
  exact isNaN_roundReal_nan _ _ _

theorem isNaN_fmul_right (a : F32) {b : F32} (h : isNaN b = true) : isNaN (fmul a b) = true := by
  unfold fmul
  rw [datum_of_isNaN h]
  cases datum a <;> exact isNaN_roundReal_nan _ _ _

theorem isNaN_fdiv_left {a : F32} (b : F32) (h : isNaN a = true) : isNaN (fdiv a b) = true := by
  unfold fdiv
  rw [datum_of_isNaN h]
  exact isNaN_roundReal_nan _ _ _

theorem isNaN_ffloor {a : F32} (h : isNaN a = true) : isNaN (ffloor a) = true := by
  unfold ffloor
  rw [datum_of_isNaN h]
  exact isNaN_roundReal_nan _ _ _

theorem isNaN_fabs {a : F32} (h : isNaN a = true) : isNaN (fabs a) = true := by
  unfold fabs
  rw [if_pos h]
  simp only [nanResult]
  exact isNaN_someNaN _

end Sys2Proof.Machine
end

