-- ==== Sys2Proof/Laws/PerInstr.lean ====
section
/-! SUPPORT. Statements about every instruction as syntax, one lemma for each constructor: the size of its encoding (30_encoding.md R110, R114, R121). -/

/-- The encoding of an instruction has its size, which its code alone fixes as 1 + arity (R114, R121). -/
def Sys2Proof.Laws.EncodedSize.Statement (i : Sys2Proof.Instr) : Prop :=
  (Sys2Proof.encode i).length = i.size ∧ i.size = 1 + Sys2Proof.arity i.code

namespace Sys2Proof.Laws.EncodedSize

theorem nop : Statement .nop := ⟨rfl, rfl⟩
theorem setWaveform (u : U32) : Statement (.setWaveform u) := ⟨rfl, rfl⟩
theorem setRunning (u : U32) : Statement (.setRunning u) := ⟨rfl, rfl⟩
theorem setStep (u : U32) : Statement (.setStep u) := ⟨rfl, rfl⟩
theorem setPatternLength (u : U32) : Statement (.setPatternLength u) := ⟨rfl, rfl⟩
theorem setNextPattern (u : U32) : Statement (.setNextPattern u) := ⟨rfl, rfl⟩
theorem setDelayLength (u : U32) : Statement (.setDelayLength u) := ⟨rfl, rfl⟩
theorem setCutoff (v : F32) : Statement (.setCutoff v) := ⟨rfl, rfl⟩
theorem setResonance (v : F32) : Statement (.setResonance v) := ⟨rfl, rfl⟩
theorem setEnvMod (v : F32) : Statement (.setEnvMod v) := ⟨rfl, rfl⟩
theorem setDecay (v : F32) : Statement (.setDecay v) := ⟨rfl, rfl⟩
theorem setAccent (v : F32) : Statement (.setAccent v) := ⟨rfl, rfl⟩
theorem setDistortionShape (v : F32) : Statement (.setDistortionShape v) := ⟨rfl, rfl⟩
theorem setDistortionThreshold (v : F32) : Statement (.setDistortionThreshold v) := ⟨rfl, rfl⟩
theorem setDelaySend (v : F32) : Statement (.setDelaySend v) := ⟨rfl, rfl⟩
theorem setDelayFeedback (v : F32) : Statement (.setDelayFeedback v) := ⟨rfl, rfl⟩
theorem setTempo (v : F32) : Statement (.setTempo v) := ⟨rfl, rfl⟩
theorem stepChanged (u : U32) : Statement (.stepChanged u) := ⟨rfl, rfl⟩

end Sys2Proof.Laws.EncodedSize
end

