-- ==== Sys2Proof/Laws/Voice.lean ====
section
/-! SUPPORT. What one sample can do (46_voice.md R390): what each part of the voice's procedure writes, and what a whole sample leaves. -/

namespace Sys2Proof.Machine

/-- What no part of a sample writes: the implementation parameters, the call's own state, CMD, the outputs and the parameter registers. -/
structure SameControl (s t : State) : Prop where
  config : t.config = s.config
  stage : t.stage = s.stage
  cursor : t.cursor = s.cursor
  returned : t.returned = s.returned
  host : t.host = s.host
  cmd : t.cmd = s.cmd
  outL : t.outL = s.outL
  outR : t.outR = s.outR
  params : t.params = s.params

/-- What the notifications of a sample are kept in. -/
structure SameNotify (s t : State) : Prop where
  notify : t.notify = s.notify
  notifyLen : t.notifyLen = s.notifyLen
  log : t.log = s.log

/-- The filters, the delay and the control rate, which the reaction to a step does not write. -/
structure SameSignal (s t : State) : Prop where
  hp1 : t.hp1 = s.hp1
  ap : t.ap = s.ap
  hp2 : t.hp2 = s.hp2
  notch : t.notch = s.notch
  declick : t.declick = s.declick
  ladder : t.ladder = s.ladder
  sweptCutoff : t.sweptCutoff = s.sweptCutoff
  sampleCount : t.sampleCount = s.sampleCount
  delayBuf : t.delayBuf = s.delayBuf
  delayPos : t.delayPos = s.delayPos

/-- The envelopes, their multipliers and the accent, which only a step and the decay write. -/
structure SameEnvelopes (s t : State) : Prop where
  ampEnv : t.ampEnv = s.ampEnv
  filtEnv : t.filtEnv = s.filtEnv
  ampMul : t.ampMul = s.ampMul
  filtMul : t.filtMul = s.filtMul
  accentActive : t.accentActive = s.accentActive

/-- The designs of the filters with fixed settings: whatever else changes, only their delay registers do (R306,
R400, R403). -/
structure SameDesigns (s t : State) : Prop where
  hp1 : t.hp1 = { s.hp1 with x1 := t.hp1.x1, y1 := t.hp1.y1 }
  ap : t.ap = { s.ap with x1 := t.ap.x1, y1 := t.ap.y1 }
  hp2 : t.hp2 = { s.hp2 with x1 := t.hp2.x1, y1 := t.hp2.y1 }
  notch : t.notch = { s.notch with x1 := t.notch.x1, x2 := t.notch.x2, y1 := t.notch.y1, y2 := t.notch.y2 }
  declick :
    t.declick = { s.declick with x1 := t.declick.x1, x2 := t.declick.x2, y1 := t.declick.y1, y2 := t.declick.y2 }
  fbhp : t.ladder.fbhp = { s.ladder.fbhp with x1 := t.ladder.fbhp.x1, y1 := t.ladder.fbhp.y1 }

theorem SameEnvelopes.trans {s t u : State} (h : SameEnvelopes s t) (k : SameEnvelopes t u) : SameEnvelopes s u :=
  ⟨k.1.trans h.1, k.2.trans h.2, k.3.trans h.3, k.4.trans h.4, k.5.trans h.5⟩

theorem SameDesigns.trans {s t u : State} (h : SameDesigns s t) (k : SameDesigns t u) : SameDesigns s u :=
  ⟨by rw [k.1, h.1], by rw [k.2, h.2], by rw [k.3, h.3], by rw [k.4, h.4], by rw [k.5, h.5], by rw [k.6, h.6]⟩

theorem SameSignal.designs {s t : State} (h : SameSignal s t) : SameDesigns s t :=
  ⟨by rw [h.hp1], by rw [h.ap], by rw [h.hp2], by rw [h.notch], by rw [h.declick], by rw [h.ladder]⟩

theorem SameControl.trans {s t u : State} (h : SameControl s t) (k : SameControl t u) : SameControl s u :=
  ⟨k.1.trans h.1, k.2.trans h.2, k.3.trans h.3, k.4.trans h.4, k.5.trans h.5, k.6.trans h.6, k.7.trans h.7,
    k.8.trans h.8, k.9.trans h.9⟩

theorem SameNotify.trans {s t u : State} (h : SameNotify s t) (k : SameNotify t u) : SameNotify s u :=
  ⟨k.1.trans h.1, k.2.trans h.2, k.3.trans h.3⟩

/-- What a played step leaves (R391): the sequencer, the notifications and the signal path. -/
theorem playStep_frame (st : Step) (s : State) :
    SameControl s (playStep st s) ∧ SameNotify s (playStep st s) ∧ SameSignal s (playStep st s) ∧
    (playStep st s).seq = s.seq := by
  unfold playStep
  cases st.slide <;>
    exact ⟨⟨rfl, rfl, rfl, rfl, rfl, rfl, rfl, rfl, rfl⟩, ⟨rfl, rfl, rfl⟩,
      ⟨rfl, rfl, rfl, rfl, rfl, rfl, rfl, rfl, rfl, rfl⟩, rfl⟩

/-- What a notification leaves (R394). -/
theorem pushNotify_frame (p : Fin Config.maxSteps) (s : State) :
    SameControl s (pushNotify p s) ∧ SameSignal s (pushNotify p s) ∧ (pushNotify p s).seq = s.seq ∧
    (pushNotify p s).osc = s.osc ∧ (pushNotify p s).ampEnv = s.ampEnv ∧ (pushNotify p s).filtEnv = s.filtEnv ∧
    (pushNotify p s).ampMul = s.ampMul ∧ (pushNotify p s).filtMul = s.filtMul ∧
    (pushNotify p s).accentActive = s.accentActive := by
  unfold pushNotify
  split <;>
    exact ⟨⟨rfl, rfl, rfl, rfl, rfl, rfl, rfl, rfl, rfl⟩, ⟨rfl, rfl, rfl, rfl, rfl, rfl, rfl, rfl, rfl, rfl⟩,
      rfl, rfl, rfl, rfl, rfl, rfl, rfl⟩

/-- What the sequencer's part of a sample does: the advance, and the reaction to its event (R390, R391). -/
theorem voiceSequence_frame (s : State) :
    SameControl s (voiceSequence s) ∧ SameSignal s (voiceSequence s) ∧
    (voiceSequence s).seq = (seqAdvance s.config s.params.tempo s.seq).1 := by
  unfold voiceSequence
  generalize seqAdvance s.config s.params.tempo s.seq = adv
  obtain ⟨q, _ | ⟨p, st⟩⟩ := adv
  · exact ⟨⟨rfl, rfl, rfl, rfl, rfl, rfl, rfl, rfl, rfl⟩, ⟨rfl, rfl, rfl, rfl, rfl, rfl, rfl, rfl, rfl, rfl⟩, rfl⟩
  · simp only [onStep]
    split
    · obtain ⟨a, b, c, -⟩ := pushNotify_frame p (playStep st { s with seq := q })
      obtain ⟨d, -, e, f⟩ := playStep_frame st { s with seq := q }
      exact ⟨⟨a.1.trans d.1, a.2.trans d.2, a.3.trans d.3, a.4.trans d.4, a.5.trans d.5, a.6.trans d.6,
        a.7.trans d.7, a.8.trans d.8, a.9.trans d.9⟩, ⟨b.1.trans e.1, b.2.trans e.2, b.3.trans e.3, b.4.trans e.4,
        b.5.trans e.5, b.6.trans e.6, b.7.trans e.7, b.8.trans e.8, b.9.trans e.9, b.10.trans e.10⟩, c.trans f⟩
    · obtain ⟨a, b, c, -⟩ := pushNotify_frame p { s with seq := q }
      exact ⟨⟨a.1, a.2, a.3, a.4, a.5, a.6, a.7, a.8, a.9⟩,
        ⟨b.1, b.2, b.3, b.4, b.5, b.6, b.7, b.8, b.9, b.10⟩, c⟩

/-- What the sequencer's part can do to the notifications: nothing, five bytes more, or one log record (R394). -/
theorem voiceSequence_notify (s : State) :
    ((seqAdvance s.config s.params.tempo s.seq).2 = none ∧ SameNotify s (voiceSequence s)) ∨
    ∃ p st, (seqAdvance s.config s.params.tempo s.seq).2 = some (p, st) ∧
      ((s.notifyLen + 5 ≤ s.config.notifyCap ∧
          (voiceSequence s).notify =
            memWriteBytes s.notifyLen (encode (.stepChanged (BitVec.ofNat 32 p.val))) s.notify ∧
          (voiceSequence s).notifyLen = s.notifyLen + 5 ∧ (voiceSequence s).log = s.log) ∨
        (s.config.notifyCap < s.notifyLen + 5 ∧ (voiceSequence s).notify = s.notify ∧
          (voiceSequence s).notifyLen = s.notifyLen ∧
          (voiceSequence s).log = s.log ++ [⟨.notifyOverflow, BitVec.ofNat 32 p.val⟩])) := by
  unfold voiceSequence
  generalize seqAdvance s.config s.params.tempo s.seq = adv
  obtain ⟨q, _ | ⟨p, st⟩⟩ := adv
  · exact .inl ⟨rfl, rfl, rfl, rfl⟩
  · refine .inr ⟨p, st, rfl, ?_⟩
    simp only [onStep]
    have key : ∀ u : State, u.config = s.config → SameNotify s u →
        ((s.notifyLen + 5 ≤ s.config.notifyCap ∧
          (pushNotify p u).notify =
            memWriteBytes s.notifyLen (encode (.stepChanged (BitVec.ofNat 32 p.val))) s.notify ∧
          (pushNotify p u).notifyLen = s.notifyLen + 5 ∧ (pushNotify p u).log = s.log) ∨
        (s.config.notifyCap < s.notifyLen + 5 ∧ (pushNotify p u).notify = s.notify ∧
          (pushNotify p u).notifyLen = s.notifyLen ∧
          (pushNotify p u).log = s.log ++ [⟨.notifyOverflow, BitVec.ofNat 32 p.val⟩])) := by
      intro u hc hu
      rcases pushNotify_cases p u with ⟨h, e⟩ | ⟨h, e⟩
      · rw [e]
        exact .inl ⟨hc ▸ hu.notifyLen ▸ h, by simp only [hu.notify, hu.notifyLen],
          by simp only [hu.notifyLen], hu.log⟩
      · rw [e]
        exact .inr ⟨hc ▸ hu.notifyLen ▸ h, hu.notify, hu.notifyLen, by simp only [logSkip, hu.log]⟩
    split
    · obtain ⟨hc, hn, -⟩ := playStep_frame st { s with seq := q }
      exact key _ hc.config ⟨hn.1, hn.2, hn.3⟩
    · exact key _ rfl ⟨rfl, rfl, rfl⟩

/-- A control tick counts a glide down, and at 0 stays there (R216). -/
theorem oscUpdate_glideLeft (o : Oscillator binary32) : (oscUpdate o).glideLeft = o.glideLeft - 1 := by
  by_cases h : o.glideLeft = 0 <;> simp [oscUpdate, h]

/-- The ladder's render keeps the coefficients (R304). -/
theorem ladderRender_coefficients (c : EngineConfig binary32) (ld : Ladder binary32) (x : F32) :
    (ladderRender c ld x).1.b0 = ld.b0 ∧ (ladderRender c ld x).1.g = ld.g ∧ (ladderRender c ld x).1.k = ld.k :=
  ⟨rfl, rfl, rfl⟩

/-- A biquad's render keeps the coefficients (R254, R271). -/
theorem biquadRender_coefficients (c : EngineConfig binary32) (F : Biquad binary32) (x : F32) :
    (biquadRender c F x).1 = { F with
      x1 := (biquadRender c F x).1.x1
      x2 := (biquadRender c F x).1.x2
      y1 := (biquadRender c F x).1.y1
      y2 := (biquadRender c F x).1.y2 } := by
  simp only [biquadRender]
  split <;> rfl

/-- (3) and (4): the oscillator's sample, and the control tick of a sample that is one. It writes the oscillator,
and at a tick the swept cutoff and the ladder's coefficients (R390, R398). -/
theorem voiceTone_frame (s : State) :
    SameControl s (voiceTone s).1 ∧ SameNotify s (voiceTone s).1 ∧ SameEnvelopes s (voiceTone s).1 ∧
    SameDesigns s (voiceTone s).1 ∧ (voiceTone s).1.seq = s.seq ∧ (voiceTone s).1.sampleCount = s.sampleCount ∧
    (voiceTone s).1.delayBuf = s.delayBuf ∧ (voiceTone s).1.delayPos = s.delayPos ∧
    (voiceTone s).1.osc =
      (if isControlTick s then oscUpdate (advancePhase s.config s.osc) else advancePhase s.config s.osc) ∧
    (voiceTone s).1.sweptCutoff =
      (if isControlTick s then sweptCutoffOf s.config s.params s.accentActive s.filtEnv else s.sweptCutoff) ∧
    (voiceTone s).1.ladder =
      (if isControlTick s then
        ladderDesign s.config s.ladder (sweptCutoffOf s.config s.params s.accentActive s.filtEnv) s.params.resonance
      else s.ladder) := by
  have ht : isControlTick { s with osc := advancePhase s.config s.osc } = isControlTick s := rfl
  simp only [voiceTone, oscRender, ht]
  cases isControlTick s <;>
    simp only [Bool.false_eq_true, if_false, if_true, controlTick, updateOsc, redesignLadder]
  · exact ⟨⟨rfl, rfl, rfl, rfl, rfl, rfl, rfl, rfl, rfl⟩, ⟨rfl, rfl, rfl⟩, ⟨rfl, rfl, rfl, rfl, rfl⟩,
      ⟨rfl, rfl, rfl, rfl, rfl, rfl⟩, trivial, trivial, trivial, trivial, trivial, trivial, trivial⟩
  · exact ⟨⟨rfl, rfl, rfl, rfl, rfl, rfl, rfl, rfl, rfl⟩, ⟨rfl, rfl, rfl⟩, ⟨rfl, rfl, rfl, rfl, rfl⟩,
      ⟨rfl, rfl, rfl, rfl, rfl, rfl⟩, trivial, trivial, trivial, trivial, trivial, trivial, trivial⟩

/-- (5) to (8): the signal path writes the filters' registers and the delay only (R390, R345). -/
theorem voicePath_frame (s : State) (x : F32) :
    SameControl s (voicePath s x).1 ∧ SameNotify s (voicePath s x).1 ∧ SameEnvelopes s (voicePath s x).1 ∧
    SameDesigns s (voicePath s x).1 ∧ (voicePath s x).1.seq = s.seq ∧
    (voicePath s x).1.sampleCount = s.sampleCount ∧ (voicePath s x).1.osc = s.osc ∧
    (voicePath s x).1.sweptCutoff = s.sweptCutoff ∧
    (∃ y, (voicePath s x).1.ladder = (ladderRender s.config s.ladder y).1) ∧
    (∃ y, (voicePath s x).1.delayBuf = memWrite s.delayPos
        (fadd (fadd (fmul s.params.delaySend y) (fmul s.params.delayFeedback (memRead s.delayBuf s.delayPos)))
          s.config.denormalBias) s.delayBuf) ∧
    (voicePath s x).1.delayPos = (s.delayPos + 1) % s.params.delayLength := by
  refine ⟨⟨?_, ?_, ?_, ?_, ?_, ?_, ?_, ?_, ?_⟩, ⟨?_, ?_, ?_⟩, ⟨?_, ?_, ?_, ?_, ?_⟩, ⟨rfl, rfl, rfl, ?_, ?_, rfl⟩,
    ?_, ?_, ?_, ?_, ⟨(onePoleRender s.config s.hp1 x).2, ?_⟩,
    ⟨saturate s.params.distAmount s.params.distShape (applyGain (filterChain s x).1 (filterChain s x).2).2, ?_⟩, ?_⟩
  case refine_18 => exact biquadRender_coefficients _ _ _
  case refine_19 => exact biquadRender_coefficients _ _ _
  all_goals simp only [voicePath, delayRender, applyGain, filterChain]

/-- What a whole sample leaves: each part's own words, put together (R390). -/
theorem voiceRender_frame (s : State) :
    SameControl s (voiceRender s).1 ∧ SameNotify (voiceSequence s) (voiceRender s).1 ∧ SameDesigns s (voiceRender s).1 ∧
    (voiceRender s).1.seq = (seqAdvance s.config s.params.tempo s.seq).1 ∧
    (voiceRender s).1.sampleCount = s.sampleCount + 1#64 ∧
    (∃ y, (voiceRender s).1.delayBuf = memWrite s.delayPos
        (fadd (fadd (fmul s.params.delaySend y) (fmul s.params.delayFeedback (memRead s.delayBuf s.delayPos)))
          s.config.denormalBias) s.delayBuf) ∧
    (voiceRender s).1.delayPos = (s.delayPos + 1) % s.params.delayLength := by
  obtain ⟨a, b, c⟩ := voiceSequence_frame s
  obtain ⟨t1, t2, -, t3, t4, t5, t6, t7, -⟩ := voiceTone_frame (decayEnvelopes (voiceSequence s))
  obtain ⟨p1, p2, -, p3, p4, p5, -, -, -, ⟨y, p6⟩, p7⟩ :=
    voicePath_frame (voiceTone (decayEnvelopes (voiceSequence s))).1
      (voiceTone (decayEnvelopes (voiceSequence s))).2
  have e1 : SameControl (voiceSequence s) (decayEnvelopes (voiceSequence s)) :=
    ⟨rfl, rfl, rfl, rfl, rfl, rfl, rfl, rfl, rfl⟩
  have e2 : SameNotify (voiceSequence s) (decayEnvelopes (voiceSequence s)) := ⟨rfl, rfl, rfl⟩
  have e3 : SameDesigns s (decayEnvelopes (voiceSequence s)) :=
    b.designs.trans ⟨rfl, rfl, rfl, rfl, rfl, rfl⟩
  have q1 := ((a.trans e1).trans t1).trans p1
  have q2 := (e2.trans t2).trans p2
  have q3 := (e3.trans t3).trans p3
  have d0 := ((a.trans e1).trans t1).config
  have d1 : (voiceTone (decayEnvelopes (voiceSequence s))).1.delayBuf = s.delayBuf := t6.trans b.delayBuf
  have d2 : (voiceTone (decayEnvelopes (voiceSequence s))).1.delayPos = s.delayPos := t7.trans b.delayPos
  have d3 : (voiceTone (decayEnvelopes (voiceSequence s))).1.params = s.params := ((a.trans e1).trans t1).params
  simp only [voiceRender]
  refine ⟨⟨q1.1, q1.2, q1.3, q1.4, q1.5, q1.6, q1.7, q1.8, q1.9⟩, ⟨q2.1, q2.2, q2.3⟩,
    ⟨q3.1, q3.2, q3.3, q3.4, q3.5, q3.6⟩, ?_, ?_, ⟨y, ?_⟩, ?_⟩
  · exact (p4.trans t4).trans c
  · rw [p5, t5]
    exact congrArg (· + 1#64) b.sampleCount
  · rw [p6, d0, d1, d2, d3]
  · rw [p7, d2, d3]

/-- What a sample leaves of the oscillator, the envelopes and the control rate: the phase advances, both envelopes
decay, and at a control tick the glide advances and the swept cutoff and the ladder's coefficients are those of the
sample's registers and envelope (R397 to R399). -/
theorem voiceRender_control (s : State) :
    let v := voiceSequence s
    let t := (voiceRender s).1
    let tick := s.sampleCount.toNat % Config.ctrlPeriod = 0
    let fc := sweptCutoffOf s.config s.params t.accentActive t.filtEnv
    t.accentActive = v.accentActive ∧ t.ampMul = v.ampMul ∧ t.filtMul = v.filtMul ∧
    t.ampEnv = fmul v.ampEnv v.ampMul ∧ t.filtEnv = fmul v.filtEnv v.filtMul ∧
    t.osc = (if tick then oscUpdate (advancePhase s.config v.osc) else advancePhase s.config v.osc) ∧
    t.sweptCutoff = (if tick then fc else s.sweptCutoff) ∧
    ∃ y, t.ladder = (ladderRender s.config
      (if tick then ladderDesign s.config s.ladder fc s.params.resonance else s.ladder) y).1 := by
  obtain ⟨a, b, -⟩ := voiceSequence_frame s
  obtain ⟨-, -, t1, -, -, -, -, -, t2, t3, t4⟩ := voiceTone_frame (decayEnvelopes (voiceSequence s))
  obtain ⟨-, -, p1, -, -, -, p2, p3, ⟨y, p4⟩, -⟩ :=
    voicePath_frame (voiceTone (decayEnvelopes (voiceSequence s))).1
      (voiceTone (decayEnvelopes (voiceSequence s))).2
  have hc : (voiceTone (decayEnvelopes (voiceSequence s))).1.config = s.config :=
    (voiceTone_frame (decayEnvelopes (voiceSequence s))).1.config.trans a.config
  have ht : isControlTick (decayEnvelopes (voiceSequence s)) =
      decide (s.sampleCount.toNat % Config.ctrlPeriod = 0) := by
    simp only [isControlTick, decayEnvelopes_sampleCount, b.sampleCount]
  have q := t1.trans p1
  simp only [voiceRender]
  refine ⟨q.accentActive, q.ampMul, q.filtMul, q.ampEnv, q.filtEnv, ?_, ?_, y, ?_⟩
  · rw [p2, t2, ht]
    simp only [decide_eq_true_eq, decayEnvelopes_config, decayEnvelopes_osc, a.config]
  · rw [p3, t3, ht, q.accentActive, q.filtEnv]
    simp only [decide_eq_true_eq, decayEnvelopes_config, decayEnvelopes_params, decayEnvelopes_sweptCutoff, a.config,
      a.params, b.sweptCutoff]
  · rw [p4, t4, ht, q.accentActive, q.filtEnv, hc]
    simp only [decide_eq_true_eq, decayEnvelopes_config, decayEnvelopes_params, decayEnvelopes_ladder, a.config,
      a.params, b.ladder]

/-- The interpolated lookup of R213, with the index of the table wrapped once. -/
theorem oscSample_eq (c : EngineConfig binary32) (o : Oscillator binary32) :
    oscSample c o =
      (let k := (floorU32 o.phase).toNat % c.tableLen
      let a := wavetable c o.segWave o.segNote k
      let b := wavetable c o.segWave o.segNote ((k + 1) % c.tableLen)
      fadd a (fmul (fsub o.phase (fnat k)) (fsub b a))) := by
  simp only [oscSample, tableIndex, segmentEntry, Nat.mod_mod]

/-- What a sample is and what its signal path leaves, each filter's render on the one before it (R390, R345, R400,
R403). -/
theorem voiceRender_written (s : State) :
    let c := s.config
    let p := s.params
    let v := voiceSequence s
    let swept := sweptCutoffOf c p v.accentActive (fmul v.filtEnv v.filtMul)
    let hp1 := onePoleRender c s.hp1 (oscSample c v.osc)
    let ladder := ladderRender c
      (if s.sampleCount.toNat % Config.ctrlPeriod = 0 then ladderDesign c s.ladder swept p.resonance else s.ladder)
      hp1.2
    let ap := onePoleRender c s.ap ladder.2
    let hp2 := onePoleRender c s.hp2 ap.2
    let notch := biquadRender c s.notch hp2.2
    let declick := biquadRender c s.declick (gainRaw p v.accentActive (fmul v.ampEnv v.ampMul))
    let z := saturate p.distAmount p.distShape (fmul notch.2 declick.2)
    let tap := memRead s.delayBuf s.delayPos
    let t := (voiceRender s).1
    (voiceRender s).2 = fadd z tap ∧ t.hp1 = hp1.1 ∧ t.ladder = ladder.1 ∧ t.ap = ap.1 ∧ t.hp2 = hp2.1 ∧
    t.notch = notch.1 ∧ t.declick = declick.1 ∧
    t.delayBuf =
      memWrite s.delayPos (fadd (fadd (fmul p.delaySend z) (fmul p.delayFeedback tap)) c.denormalBias) s.delayBuf ∧
    t.delayPos = (s.delayPos + 1) % p.delayLength := by
  obtain ⟨a, b, -⟩ := voiceSequence_frame s
  generalize hv : voiceSequence s = v at *
  have tick : isControlTick
      { decayEnvelopes v with osc := advancePhase (decayEnvelopes v).config (decayEnvelopes v).osc } =
      decide (s.sampleCount.toNat % Config.ctrlPeriod = 0) := by
    simp only [isControlTick, decayEnvelopes, b.sampleCount]
  simp only [voiceRender, hv, voiceTone, oscRender, tick]
  by_cases h : s.sampleCount.toNat % Config.ctrlPeriod = 0 <;>
    simp only [h, decide_true, decide_false, if_true, if_false, Bool.false_eq_true, controlTick, updateOsc,
      redesignLadder, voicePath, filterChain, applyGain, delayRender, decayEnvelopes, a.config, a.params, b.hp1, b.ap,
      b.hp2, b.notch, b.declick, b.ladder, b.delayBuf, b.delayPos, and_self]

end Sys2Proof.Machine
end

