-- ==== Sys2Proof/Laws/Step.lean ====
section
/-! SUPPORT. What one step can do (40_decoder.md R140), and what the fetch window shows of the bytes before the cursor (R142). -/

namespace Sys2Proof.Machine

/-- All that a step that answers a next state can have done: the construction of the engine, nothing, a move of the host, an instruction, the
end of the decode phase, or a sample. -/
theorem step_cases {s t : State} (h : step s = .next t) :
    (s.stage = .constructing true ∧ t = { State.construct s.config with host := s.host }) ∨
    (s.stage = .idle ∧ s.host = [] ∧ t = s) ∨
    (s.stage = .idle ∧ ∃ c rest, s.host = c :: rest ∧ t = hostMove c { s with host := rest }) ∨
    (∃ pos i rest, s.stage = .decode pos ∧ decode (fetchWindow s pos) = .ok (i, rest) ∧
      exec i { s with stage := .decode (pos + i.size) } = .next t) ∨
    (∃ pos e, s.stage = .decode pos ∧ decode (fetchWindow s pos) = .error e ∧ t = endDecode s) ∨
    (∃ i, s.stage = .render i ∧ t = storeSample i (voiceRender s).2 (voiceRender s).1) := by
  simp only [step, stepWith] at h
  split at h
  · rename_i resources hs
    cases resources
    · simp [stepConstruct] at h
    · simp only [stepConstruct, if_true] at h
      cases h
      exact .inl ⟨hs, rfl⟩
  · simp only [stepIdle] at h
    split at h
    · cases h
      exact .inr (.inl ⟨‹_›, ‹_›, rfl⟩)
    · cases h
      exact .inr (.inr (.inl ⟨‹_›, _, _, ‹_›, rfl⟩))
  · simp only [stepDecode] at h
    split at h
    · exact .inr (.inr (.inr (.inl ⟨_, _, _, ‹_›, ‹_›, h⟩)))
    · cases h
      exact .inr (.inr (.inr (.inr (.inl ⟨_, _, ‹_›, ‹_›, rfl⟩))))
  · simp only [stepRender] at h
    cases h
    exact .inr (.inr (.inr (.inr (.inr ⟨_, ‹_›, rfl⟩))))

/-- The step at each stage (R140). -/
theorem step_constructing {s : State} {r : Bool} (h : s.stage = .constructing r) : step s = stepConstruct r s := by
  simp only [step, stepWith, h]

theorem step_idle {s : State} (h : s.stage = .idle) : step s = stepIdle s := by
  simp only [step, stepWith, h]

theorem step_decode {s : State} {pos : Nat} (h : s.stage = .decode pos) : step s = stepDecode exec pos s := by
  simp only [step, stepWith, h]

theorem step_render {s : State} {i : Nat} (h : s.stage = .render i) :
    step s = .next (storeSample i (voiceRender s).2 (voiceRender s).1) := by
  simp only [step, stepWith, h, stepRender]

/-- A run whose first step answers a next state goes on from that state. -/
theorem run_succ {s t : State} (n : Nat) (h : step s = .next t) :
    Sys2Proof.core.run (n + 1) s = Sys2Proof.core.run n t := by
  have e : Sys2Proof.core.step s = Host.Outcome.next t := h
  simp only [Host.Core.run, e]

/-- A run of `m` steps that answers a next state, and then `n` steps more. -/
theorem run_add (m n : Nat) {s t : State} (h : Sys2Proof.core.run m s = .next t) :
    Sys2Proof.core.run (m + n) s = Sys2Proof.core.run n t := by
  induction m generalizing s with
  | zero =>
    simp only [Host.Core.run] at h
    cases h
    simp
  | succ m ih =>
    rw [Nat.add_right_comm]
    simp only [Host.Core.run] at h ⊢
    split at h
    · exact ih h
    · cases h
    · cases h

/-- The fetch window is the first five bytes of what the decoder may read. -/
theorem fetchWindow_eq_take (s : State) (pos : Nat) : fetchWindow s pos = (bytesBeforeCursor s pos).take 5 := by
  simp only [fetchWindow, bytesBeforeCursor, memReadBytes, ← List.map_take, List.take_range]

/-- Five bytes are enough to decode an instruction (R110). -/
theorem decode_take_five {bs rest : List U8} {i : Instr} (h : decode bs = .ok (i, rest)) :
    ∃ r, decode (bs.take 5) = .ok (i, r) := by
  rcases bs with _ | ⟨c, tl⟩
  · simp [decode] at h
  · simp only [decode, List.take_succ_cons] at h ⊢
    split <;> simp_all
    rcases tl with _ | ⟨a, _ | ⟨b, _ | ⟨d, _ | ⟨e, tl⟩⟩⟩⟩ <;> simp_all

/-- Five bytes are enough to see that there is no whole instruction (R144). -/
theorem decode_take_five_error {bs : List U8} {e : DecodeStop} (h : decode bs = .error e) :
    decode (bs.take 5) = .error e := by
  rcases bs with _ | ⟨c, tl⟩
  · exact h
  · simp only [decode, List.take_succ_cons] at h ⊢
    split <;> simp_all
    rcases tl with _ | ⟨a, _ | ⟨b, _ | ⟨d, _ | ⟨e, tl⟩⟩⟩⟩ <;> simp_all

end Sys2Proof.Machine
end

