-- ==== Sys2Proof/Tests/Slice0.lean ====
section
/-! SUPPORT. Tests. Every expected value is the spec's own: 95_test_vectors.md (V-...), an example of a rule, or a word written out from 30_encoding.md. Then one witness for every statement that has hypotheses. -/

namespace Sys2Proof.Tests

open Sys2Proof Sys2Proof.Machine

-- One proof after the other: many small kernel evaluations at once would each hold a thread and its stack.
set_option Elab.async false

/-! ## Helpers -/

/-- What a step or an instruction leaves of a state, if it answers a next one. -/
def after {α : Type} (o : Host.Outcome State Fault Refusal) (f : State → α) : Option α :=
  match o with
  | .next t => some (f t)
  | .fault _ => none
  | .refused _ => none

/-- `State.reset` with the bytes in CMD, at the start of the decode phase of `process(n)`. -/
def decoding (bytes : List U8) (n : Nat) : State :=
  beginProcess (BitVec.ofNat 32 n) { State.reset with cmd := memWriteBytes 0 bytes [] }

/-- A running sequencer with steps of two samples, in pattern 0 at position 3, at the end of that step; pattern
2 is queued. -/
def playing : Sequencer :=
  { Sequencer.construct decidedConfig with
    running := true
    stepLength := 2#32
    counter := 1#32
    position := ⟨3, by decide⟩
    nextPattern := 2 }

/-- `playing` whose active pattern ends at position 3. -/
def looping : Sequencer := setLength 0 ⟨4, by decide⟩ playing

/-- A stopped sequencer whose construction values stand, with pattern 5 queued. -/
def queued : Sequencer := { Sequencer.construct decidedConfig with nextPattern := 5 }

/-- The first sample of a block, with a sequencer. -/
def rendering (q : Sequencer) : State := { State.reset with stage := .render 0, seq := q }

/-- The REAL value of an encoding; 440.0 of V-ENC-1, a NaN and an infinity. -/
def real (u : U32) : F32 := u
def r440 : F32 := 0x43DC0000#32
def rNaN : F32 := 0x7FC00000#32
def rInf : F32 := 0x7F800000#32

/-! ## Well-formedness: an ill-formed term for each check -/

/-- R118: bits 15:13 of SetStep. -/
theorem test_wf_setStep_low_reserved : (Instr.setStep 0x0000E000#32).wellFormed = false := by decide
/-- R118: bits 23:20 of SetStep. -/
theorem test_wf_setStep_high_reserved : (Instr.setStep 0x00F00000#32).wellFormed = false := by decide
/-- R119: bits 23:8 of SetPatternLength. -/
theorem test_wf_setPatternLength_reserved : (Instr.setPatternLength 0x00000108#32).wellFormed = false := by decide
/-- R117: a notification is not the host's to write. -/
theorem test_wf_stepChanged : (Instr.stepChanged 5#32).wellFormed = false := by decide
/-- V-ENC-2: the spec's own words are well-formed. -/
theorem test_wf_words :
    (Instr.setStep 0x0001152D#32).wellFormed = true ∧ (Instr.setPatternLength 0x01000003#32).wellFormed = true ∧
    (Instr.setCutoff r440).wellFormed = true := by decide

/-! ## Decoding: words of V-ENC-2, and one for each other constructor from R113 -/

theorem test_decode_nop : decode [0x00] = .ok (.nop, []) := by decide
theorem test_decode_setWaveform : decode [0x14, 0x01, 0, 0, 0] = .ok (.setWaveform 1#32, []) := by decide
theorem test_decode_setRunning : decode [0x15, 0x01, 0, 0, 0] = .ok (.setRunning 1#32, []) := by decide
theorem test_decode_setStep : decode [0x16, 0x2D, 0x15, 0x01, 0x00] = .ok (.setStep 0x0001152D#32, []) := by decide
theorem test_decode_setPatternLength :
    decode [0x17, 0x03, 0x00, 0x00, 0x01] = .ok (.setPatternLength 0x01000003#32, []) := by decide
theorem test_decode_setNextPattern : decode [0x18, 0x02, 0, 0, 0] = .ok (.setNextPattern 2#32, []) := by decide
theorem test_decode_setDelayLength :
    decode [0x19, 0x3A, 0x11, 0x00, 0x00] = .ok (.setDelayLength 4410#32, []) := by decide
theorem test_decode_setCutoff : decode [0x28, 0x00, 0x00, 0xDC, 0x43] = .ok (.setCutoff r440, []) := by decide
theorem test_decode_setResonance :
    decode [0x29, 0x00, 0x00, 0x80, 0x3F] = .ok (.setResonance 0x3F800000#32, []) := by decide
theorem test_decode_setEnvMod : decode [0x2A, 0x00, 0x00, 0x80, 0x3F] = .ok (.setEnvMod 0x3F800000#32, []) := by decide
theorem test_decode_setDecay : decode [0x2B, 0x00, 0x00, 0x7A, 0x44] = .ok (.setDecay 0x447A0000#32, []) := by decide
theorem test_decode_setAccent : decode [0x2C, 0x00, 0x00, 0x80, 0x3F] = .ok (.setAccent 0x3F800000#32, []) := by decide
theorem test_decode_setDistortionShape :
    decode [0x2D, 0x00, 0x00, 0x80, 0x3F] = .ok (.setDistortionShape 0x3F800000#32, []) := by decide
theorem test_decode_setDistortionThreshold :
    decode [0x2E, 0x00, 0x00, 0x00, 0x3F] = .ok (.setDistortionThreshold 0x3F000000#32, []) := by decide
theorem test_decode_setDelaySend :
    decode [0x2F, 0x00, 0x00, 0x80, 0x3F] = .ok (.setDelaySend 0x3F800000#32, []) := by decide
theorem test_decode_setDelayFeedback :
    decode [0x30, 0x00, 0x00, 0x00, 0x3F] = .ok (.setDelayFeedback 0x3F000000#32, []) := by decide
theorem test_decode_setTempo : decode [0x31, 0x00, 0x00, 0x0C, 0x43] = .ok (.setTempo 0x430C0000#32, []) := by decide
theorem test_decode_stepChanged : decode [0x3C, 0x05, 0, 0, 0] = .ok (.stepChanged 5#32, []) := by decide

/-- V-DEC-1: the truncated tail. -/
theorem test_decode_truncated_tail :
    decodeStream [0x28, 0x00, 0x00, 0xDC, 0x43, 0x07, 0x15, 0x01, 0x00, 0x00, 0x00, 0x29, 0x00] =
      [.setCutoff r440, .nop, .setRunning 1#32] := by decide
/-- V-DEC-6: a reserved code takes one byte. -/
theorem test_decode_reserved_code :
    decodeStream [0x1A, 0x28, 0x00, 0x00, 0xDC] = [.nop] ∧
    decodeStream [0x1A, 0x28, 0x00, 0x00, 0xDC, 0x43] = [.nop, .setCutoff r440] := by decide
/-- V-DEC-4, V-DEC-5: a notification written by the host, whole and truncated. -/
theorem test_decode_notification :
    decodeStream [0x3C, 0x05, 0, 0, 0, 0] = [.stepChanged 5#32, .nop] ∧ decodeStream [0x3C, 0x05, 0] = [] := by decide
/-- V-ENC-3: arities at the ends of the assigned ranges. -/
theorem test_arity :
    [0, 19, 20, 25, 26, 39, 40, 49, 50, 59, 60, 61, 255].map (fun n => arity (BitVec.ofNat 8 n)) =
      [0, 0, 4, 4, 0, 0, 4, 4, 0, 0, 4, 0, 0] := by decide
/-- The opcode table's numbering: the operand's bits are 39:8. -/
theorem test_table_word : decodeTableWord 40 0x0001152D16 = some (.setStep 0x0001152D#32) ∧
    decodeTableWord 8 0x14 = some (.setWaveform 0#32) ∧ decodeTableWord 8 0x00 = some .nop := by decide

/-! ## Constants of R7 and R12, against the encodings of 95_test_vectors.md section 0 -/

theorem test_constants_hz :
    decidedConfig.fbHpHz = 0x43160000#32 ∧ decidedConfig.hp1Hz = 0x4231F1AA#32 ∧
    decidedConfig.apHz = 0x416020C5#32 ∧ decidedConfig.hp2Hz = 0x41C15604#32 ∧
    decidedConfig.notchHz = 0x40F08659#32 ∧ decidedConfig.declickHz = 0x43480000#32 ∧
    decidedConfig.fMax = 0x469C4000#32 := by decide +kernel
theorem test_constants_other :
    decidedConfig.denormalBias = 0x219392EF#32 ∧ decidedConfig.notchBw = 0x40966666#32 ∧
    decidedConfig.envModOct = 0x40800000#32 ∧ decidedConfig.accentModOct = 0x40000000#32 ∧
    decidedConfig.accentDecayMs = 0x43480000#32 ∧ decidedConfig.moorerEps = 0x3727C5AC#32 ∧
    decidedConfig.declickQ = 0x3F3504F3#32 ∧ decidedConfig.declickQ = fdiv (fnat 1) (fsqrt (fnat 2)) := by decide +kernel
theorem test_pi : (fpi : F32) = 0x40490FDB#32 ∧ (fpi : F64) = 0x400921FB54442D18#64 := by decide +kernel
/-- R7, R63: another REAL, binary64, in which the same step runs; its SetCutoff stores the operand's value, 440.0. -/
theorem test_real_is_a_parameter :
    (match execAt (.setCutoff r440) (State.construct (decidedConfig binary64)) with
      | .next t => t.params.cutoff
      | .fault _ => 0#64
      | .refused _ => 0#64) = 0x407B800000000000#64 := by decide +kernel

/-! ## The decode phase, one step -/

/-- V-DEC-2: `process(2000)` clamps the cursor to CMD_CAP. -/
theorem test_process_clamps : (decoding [] 2000).cursor = 1024 := by decide
/-- V-DEC-8: the step that decodes `SetCutoff 1000.0` moves the read position past its five bytes. -/
theorem test_step_decodes :
    after (step (decoding [0x28, 0x00, 0x00, 0x7A, 0x44, 0x28, 0x00, 0x00, 0xDC, 0x43] 10)) (fun t => (t.stage, t.params.cutoff)) =
      some (.decode 5, 0x447A0000#32) := by decide +kernel
/-- V-DEC-1: the truncated tail ends the phase with the cursor at 0 and no record. -/
theorem test_step_ends_phase :
    after (step { decoding [0x29, 0x00] 2 with stage := .decode 0 }) (fun t => (t.stage, t.cursor, t.log)) =
      some (.render 0, 0, []) := by decide
/-- A placed word is the first instruction that runs after reset (R182, V-SEQ-4). -/
theorem test_fetch_word_setStep :
    after (step (State.reset.withFetchWord 40 0x0003032416)) (fun t => (patternAt t.seq 0).steps[3]) =
      some ⟨36#8, true, true, false, false, false⟩ := by decide
theorem test_fetch_word_nop :
    after (step (State.reset.withFetchWord 8 0x00)) (fun t => (t.stage, t.log)) = some (.decode 1, []) := by decide

/-! ## Instructions -/

/-- V-OSC-5. -/
theorem test_setWaveform :
    after (exec (.setWaveform 1#32) State.reset) (fun t => t.params.waveform.val) = some 1 ∧
    after (exec (.setWaveform 0xFFFFFFFF#32) State.reset) (fun t => (t.params.waveform.val, t.log)) =
      some (0, [⟨.badWaveform, 0xFFFFFFFF#32⟩]) := by decide
/-- V-SEQ-2: Start from construction. -/
theorem test_setRunning_start :
    after (exec (.setRunning 2#32) State.reset)
      (fun t => (t.seq.running, t.seq.stepLength, t.seq.counter, t.seq.position.val)) =
      some (true, 5512#32, 5511#32, 15) := by decide +kernel
/-- V-SEQ-2: Stop keeps the counter and the position. -/
theorem test_setRunning_stop :
    after (exec (.setRunning 0#32) (rendering playing)) (fun t => (t.seq.running, t.seq.counter, t.seq.position.val)) =
      some (false, 1#32, 3) := by decide
/-- V-SEQ-4: the reserved bits of SetStep are ignored, and a bad pattern is logged. -/
theorem test_setStep :
    after (exec (.setStep 0x00F2E000#32) State.reset) (fun t => ((patternAt t.seq 0).steps[2], t.log)) =
      some (emptyStep, []) ∧
    after (exec (.setStep 0x1000013C#32) State.reset) (fun t => t.log) =
      some [⟨.badPatternIndex, 0x1000013C#32⟩] := by decide
/-- V-SEQ-4. -/
theorem test_setPatternLength :
    after (exec (.setPatternLength 0x00000008#32) State.reset) (fun t => (patternAt t.seq 0).length.val) = some 8 ∧
    [0x00000000#32, 0x00000011#32, 0x02000011#32, 0x10000004#32].map
      (fun u => after (exec (.setPatternLength u) State.reset) (fun t => t.log)) =
      [0x00000000#32, 0x00000011#32, 0x02000011#32, 0x10000004#32].map
        (fun u => some [⟨.badPatternLength, u⟩]) := by decide
/-- V-SEQ-4. -/
theorem test_setNextPattern :
    after (exec (.setNextPattern 15#32) State.reset) (fun t => (t.seq.nextPattern, t.seq.currentPattern)) =
      some (15, 0) ∧
    after (exec (.setNextPattern 16#32) State.reset) (fun t => t.log) = some [⟨.badPatternIndex, 16#32⟩] := by decide
/-- V-DLY-3. -/
theorem test_setDelayLength :
    [0x00000000#32, 0xFFFFFFFF#32, 4410#32].map
      (fun u => after (exec (.setDelayLength u) State.reset) (fun t => t.params.delayLength)) =
      [some 1, some 88200, some 4410] := by decide
/-- V-LAD-6: 0.0 and -5.0 give 1.0, 1.0e9 gives F_MAX, a NaN changes nothing. -/
theorem test_setCutoff :
    [0x00000000#32, 0xC0A00000#32, 0x4E6E6B28#32, rNaN].map
      (fun v => after (exec (.setCutoff v) State.reset) (fun t => t.params.cutoff)) =
      [some 0x3F800000#32, some 0x3F800000#32, some 0x469C4000#32, some 0x43FA0000#32] := by decide +kernel
/-- V-LAD-6: 1.5 gives 1.0; -0.0 is stored as it stands. -/
theorem test_setResonance :
    [0x3FC00000#32, 0x80000000#32].map
      (fun v => after (exec (.setResonance v) State.reset) (fun t => t.params.resonance)) =
      [some 0x3F800000#32, some 0x80000000#32] := by decide +kernel
/-- V-LAD-6: -2.0 gives 0.0. -/
theorem test_setEnvMod :
    after (exec (.setEnvMod 0xC0000000#32) State.reset) (fun t => t.params.envMod) = some 0#32 := by decide +kernel
/-- V-VOI-5: 1.0e9 gives 60000, 0.0 gives 1, a NaN is ignored. -/
theorem test_setDecay :
    [0x4E6E6B28#32, 0x00000000#32, rNaN].map
      (fun v => after (exec (.setDecay v) State.reset) (fun t => t.params.decay)) =
      [some 0x476A6000#32, some 0x3F800000#32, some 0x43960000#32] := by decide +kernel
/-- V-VOI-6: -1.0 gives 0.0. -/
theorem test_setAccent :
    after (exec (.setAccent 0xBF800000#32) State.reset) (fun t => t.params.accentDepth) = some 0#32 := by decide +kernel
/-- V-SAT-4. -/
theorem test_setDistortionThreshold :
    [0x40000000#32, 0xBF800000#32].map
      (fun v => after (exec (.setDistortionThreshold v) State.reset) (fun t => t.params.distAmount)) =
      [some 0x3F800000#32, some 0#32] := by decide +kernel
/-- V-SAT-4. -/
theorem test_setDistortionShape :
    after (exec (.setDistortionShape rNaN) State.reset) (fun t => t.params.distShape) = some 0#32 := by decide +kernel
/-- V-DLY-4. -/
theorem test_setDelaySend :
    after (exec (.setDelaySend rInf) State.reset) (fun t => t.params.delaySend) = some 0#32 := by decide +kernel
/-- V-DLY-4: 1.5 gives 1.0. -/
theorem test_setDelayFeedback :
    after (exec (.setDelayFeedback 0x3FC00000#32) State.reset) (fun t => t.params.delayFeedback) =
      some 0x3F800000#32 := by decide +kernel
/-- V-SEQ-3: 0.0, -0.0, -1.0, a NaN and an infinity are ignored; 2.0e6 stores 1.0e6. -/
theorem test_setTempo :
    [0x00000000#32, 0x80000000#32, 0xBF800000#32, rNaN, rInf, 0x49F42400#32].map
      (fun v => after (exec (.setTempo v) State.reset) (fun t => t.params.tempo)) =
      [some 0x42F00000#32, some 0x42F00000#32, some 0x42F00000#32, some 0x42F00000#32, some 0x42F00000#32,
        some 0x49742400#32] := by decide +kernel
/-- V-DEC-4: a consumed notification writes no notification. -/
theorem test_stepChanged :
    after (exec (.stepChanged 5#32) State.reset) (fun t => (t.notifyLen, t.log)) = some (0, []) := by decide

/-! ## The machine's own operations -/

/-- V-SEQ-1. -/
theorem test_stepLengthOf :
    [0x42F00000#32, 0x430C0000#32, 0x42700000#32, 0x3F800000#32, 0x3A83126F#32, 0x46217FC0#32, 0x49217FC0#32,
      0x49742400#32, 0x0DA24260#32].map (stepLengthOf decidedConfig) =
      [5512#32, 4725#32, 11025#32, 661500#32, 661499968#32, 64#32, 1#32, 1#32, 4294967295#32] := by decide +kernel
/-- V-SEQ-5: the shortened playing pattern wraps at the boundary. -/
theorem test_shortened_pattern :
    let q : Sequencer := setLength 0 ⟨4, by decide⟩
      { Sequencer.construct decidedConfig with running := true, position := ⟨10, by decide⟩, counter := 63#32, stepLength := 64#32 }
    (seqAdvance decidedConfig 0x42F00000#32 q).1.position.val = 0 ∧
    (seqAdvance decidedConfig 0x42F00000#32 q).2 = some (⟨0, by decide⟩, emptyStep) := by decide +kernel
/-- V-SAT-2, rows of amount 0: 0.05 passes; at shape 1, 1.5 gives 0.5 and 2.5 gives -0.5. -/
theorem test_saturate :
    saturate fzero fone (real 0x3D4CCCCD#32) = 0x3D4CCCCD#32 ∧ saturate fzero fone (real 0x3FC00000#32) = 0x3F000000#32 ∧
    saturate fzero fone (real 0x40200000#32) = 0xBF000000#32 := by decide +kernel
/-- V-SAT-1: the threshold of amount 1 is 0.10000002 and its gain 9.9999981. -/
theorem test_satThreshold :
    satThreshold fone = real 0x3DCCCCD0#32 ∧ fdiv fone (satThreshold fone) = real 0x411FFFFE#32 := by decide +kernel
/-- V-VOI-3: pitch 45 with up, with down and with both; pitch 0 with down. -/
theorem test_targetPitch :
    targetPitch ⟨45#8, true, false, false, false, true⟩ = (fnat 57 : F32) ∧
    targetPitch ⟨45#8, true, false, false, true, false⟩ = (fnat 33 : F32) ∧
    targetPitch ⟨45#8, true, false, false, true, true⟩ = (fnat 45 : F32) ∧
    targetPitch ⟨0#8, true, false, false, true, false⟩ = (fneg (fnat 12) : F32) := by decide +kernel
/-- V-OSC-1: the segments of -12 and 267. -/
theorem test_noteIndex : (noteIndex (fneg (fnat 12) : F32)).val = 0 ∧ (noteIndex (fnat 267 : F32)).val = 127 ∧
    (noteIndex (fnat 69 : F32)).val = 69 := by decide +kernel
/-- V-VOI-4. -/
theorem test_gainRaw :
    gainRaw { Params.construct decidedConfig with accentDepth := fone } true fhalf = fone ∧
    gainRaw { Params.construct decidedConfig with accentDepth := fone } false fhalf = fhalf ∧
    gainRaw (Params.construct decidedConfig) true fhalf = 0x3F400000#32 := by decide +kernel
/-- V-DLY-1 at L = 1: the echo of sample 0 is heard at sample 1, and DENORMAL_BIAS at sample 2. -/
theorem test_delay_impulse :
    (delayRun [fone, fzero, fzero]
      { State.reset with params := { Params.construct decidedConfig with delaySend := fone, delayLength := 1 } }).2 =
      [fone, fone, decidedConfig.denormalBias] := by decide +kernel
/-- R84: a byte of a stored sample. -/
theorem test_sample_bytes : memReadBytes (writeSample 1 r440 []) 4 4 = [0x00#8, 0x00#8, 0xDC#8, 0x43#8] := by decide

/-! ## Witnesses: each shows that the hypotheses of a statement can be met together -/

/-- A legal state other than the construction state: a running sequencer, a written command byte and a host with
one byte to write. -/
def busy : State :=
  { State.reset with
    seq := looping
    cmd := [(3, 0x15#8)]
    outL := [(0, 1#8)]
    outR := [(0, 1#8)]
    delayBuf := [(88199, fone)]
    host := [.writeCmd 1023 7#8, .callInitialize, .process 5#32] }

theorem witness_busy_legal : busy.Legal := by
  refine @State.Legal.mk _ _ ⟨?_, ?_, ?_, ?_, ?_, ?_, ?_, ?_⟩ ?_ ?_ ⟨?_, ?_, ?_, ?_, ?_, ?_, ?_, ?_, ?_, ?_, ?_, ?_⟩
    ⟨?_, ?_, ?_, ?_, ?_, ?_⟩ ?_ ⟨?_, ?_⟩ ⟨?_, ?_⟩ rfl ⟨?_, ?_⟩ ⟨?_, ?_⟩ ?_ ?_ ?_
  case refine_9 => exact (rfl : busy.cursor = 0)
  all_goals decide +kernel

theorem witness_DecodedBytesAreAnEncoding :
    decode [0x28, 0x00, 0x00, 0xDC, 0x43] = .ok (.setCutoff r440, []) ∧ decode [0x07, 0x15] = .ok (.nop, [0x15]) := by
  decide
/-- One code at each end of each range of unassigned codes. -/
theorem witness_UnassignedCodesAreOneByteNops :
    1 ≤ (1#8).toNat ∧ (19#8).toNat ≤ 19 ∧ 26 ≤ (26#8).toNat ∧ (39#8).toNat ≤ 39 ∧ 50 ≤ (50#8).toNat ∧
    (59#8).toNat ≤ 59 ∧ 61 ≤ (61#8).toNat ∧ 61 ≤ (255#8).toNat := by decide
theorem witness_LengthFollowsFromTheOpcodeByte :
    arity 0x28#8 ≤ [1#8, 2#8, 3#8, 4#8].length ∧ [1#8, 2#8, 3#8].length < arity 0x28#8 := by decide
theorem witness_TruncatedTailIsDropped : [0x00#8].length < arity 0x29#8 := by decide
theorem witness_StepRunsTheDecodedInstruction :
    (decoding [0x28, 0x00, 0x00, 0xDC, 0x43, 0x00] 6).stage = .decode 0 ∧
    decode (bytesBeforeCursor (decoding [0x28, 0x00, 0x00, 0xDC, 0x43, 0x00] 6) 0) = .ok (.setCutoff r440, [0x00]) := by
  decide
/-- The exhausted stream and the truncated instruction. -/
theorem witness_DecodePhaseEndsWithoutError :
    (decoding [0x29, 0x00] 2).stage = .decode 0 ∧
    decode (bytesBeforeCursor (decoding [0x29, 0x00] 2) 0) = .error (.truncated 0x29#8) ∧
    (decoding [] 0).stage = .decode 0 ∧ decode (bytesBeforeCursor (decoding [] 0) 0) = .error .exhausted := by decide
/-- The hypotheses of StepsOfACallAddUpToProcess and of ProcessStartsAtOffsetZero, at both clamps of the cursor. -/
theorem witness_process_call :
    ({ State.reset with host := [.process 5#32] } : State).stage = .idle ∧
    ({ State.reset with host := [.process 5#32] } : State).host = .process 5#32 :: [] ∧
    ({ State.reset with host := [.process 2000#32] } : State).host = .process 2000#32 :: [] ∧
    1 ≤ State.reset.config.blockLen := by decide
theorem witness_InitializeRestartsTheCounters :
    ({ busy with host := [.callInitialize] } : State).stage = .idle ∧
    ({ busy with host := [.callInitialize] } : State).host = .callInitialize :: [] ∧
    busy.seq.running = true ∧ 1 ≤ busy.seq.stepLength.toNat ∧ 1 < busy.seq.stepLength.toNat := by decide
theorem witness_HostWriteReachesCommandBuffer :
    busy.stage = .idle ∧ busy.cmd.wf ∧
    busy.host = .writeCmd 1023 7#8 :: [.callInitialize, .process 5#32] ∧ (3 : Nat) ≠ 1023 ∧
    1023 < busy.config.cmdCap ∧ busy.config.cmdCap ≤ 1024 := by decide
/-- A construction that fails, one that does not, and an idle engine that no host calls. -/
theorem witness_OnlyAFailedConstructionStops :
    ({ busy with stage := .constructing false } : State).stage = .constructing false ∧
    ({ busy with stage := .constructing true } : State).stage = .constructing true ∧
    ({ busy with stage := .constructing true } : State).stage ≠ .constructing false ∧
    ({ busy with host := [] } : State).stage = .idle ∧ ({ busy with host := [] } : State).host = [] := by decide
/-- The decided parameters, and others: a smaller table and block, a stream with room for no notification. -/
def small : EngineConfig binary32 :=
  { decidedConfig with sampleRate := 4, tableLen := 2, blockLen := 1, cmdCap := 0, notifyCap := 4, numPatterns := 1 }
theorem witness_ConstructionStateIsLegal : ConfigLegal decidedConfig ∧ ConfigLegal small :=
  ⟨⟨by decide, by decide, by decide, by decide, by decide, by decide, by decide, by decide +kernel⟩,
    ⟨by decide, by decide, by decide, by decide, by decide, by decide, by decide, by decide +kernel⟩⟩
theorem witness_ParametersOfTheEngineNeverChange : ∃ t, step busy = .next t := ⟨_, rfl⟩
theorem witness_StepsKeepTheStateLegal : busy.Legal ∧ ∃ t, step busy = .next t :=
  ⟨witness_busy_legal, _, rfl⟩
/-- A stop, a start of a running sequencer and a start of a stopped one. -/
theorem witness_SetRunningStartsAndStops :
    (0#32 : U32) = 0#32 ∧ (1#32 : U32) ≠ 0#32 ∧ busy.seq.running = true ∧ State.reset.seq.running = false := by decide
theorem witness_FirstSampleAfterStartEmitsStepZero :
    queued.Legal decidedConfig ∧ (1#32 : U32) ≠ 0#32 ∧ queued.running = false :=
  ⟨⟨by decide, by decide, by decide, by decide, by decide +kernel, by decide +kernel⟩, by decide, by decide⟩
/-- V-SEQ-3: an ignored operand by each ground, and an accepted one. -/
theorem witness_SetTempoStoresAPositiveTempo :
    finite rInf = false ∧ fle (real 0x80000000#32) (fnat 0) = true ∧ finite (real 0x49F42400#32) = true ∧
    flt (fnat 0) (real 0x49F42400#32) = true ∧ flt (fnat 0) (real 0x00000001#32) = true := by decide +kernel
/-- The last good and the first bad pattern index, and a slot and pattern that are replaced. -/
theorem witness_SetStepReplacesOneSlot :
    (15#8).toNat < State.reset.config.numPatterns ∧
    State.reset.seq.patterns.length = State.reset.config.numPatterns ∧
    State.reset.config.numPatterns ≤ (16#8).toNat ∧ (15 : Nat) = (15#8).toNat ∧
    (⟨15, by decide⟩ : Fin Config.maxSteps).val = (15#4).toNat := by decide
/-- The shortest and the longest length, and one bad operand by each ground. -/
theorem witness_SetPatternLengthSetsOneLength :
    (15#8).toNat < State.reset.config.numPatterns ∧
    State.reset.seq.patterns.length = State.reset.config.numPatterns ∧ 1 ≤ (1#8).toNat ∧ (16#8).toNat ≤ 16 ∧
    State.reset.config.numPatterns ≤ (16#8).toNat ∧ (0#8).toNat = 0 ∧ 16 < (17#8).toNat := by decide
/-- The last good and the first bad index of each control. -/
theorem witness_IndexControlsStoreALegalIndex :
    (15#32).toNat < State.reset.config.numPatterns ∧ State.reset.config.numPatterns ≤ (16#32).toNat ∧
    (1#32).toNat < Config.numWaves ∧ 2 ≤ (2#32).toNat := by decide
/-- The ends of the operand ranges, as the statements name them and as the model holds them. -/
theorem test_range_ends :
    fnat 0 = (fzero : F32) ∧ fnat 1 = real 0x3F800000#32 ∧ fnat 20000 = decidedConfig.fMax ∧ fnat 60000 = real 0x476A6000#32 ∧
    fnat 1000000 = real 0x49742400#32 ∧ fnat 200 = decidedConfig.accentDecayMs := by decide +kernel
/-- Operands of each clause of a sanitised write to a range: a NaN and an infinity, both ends of the range, and a
value just below and just above it. -/
def clauses (lo hi below above : F32) : Prop :=
  finite rNaN = false ∧ finite rInf = false ∧
  finite lo = true ∧ fle lo lo = true ∧ fle lo hi = true ∧ finite hi = true ∧ fle hi hi = true ∧
  finite below = true ∧ flt below lo = true ∧ finite above = true ∧ flt hi above = true
/-- SetCutoff, to [1, F_MAX]. -/
theorem witness_LadderControlsClampAndRedesign : clauses (fnat 1) State.reset.config.fMax 0x3F7FFFFF#32 0x469C4001#32 := by
  unfold clauses
  decide +kernel
/-- SetDecay, to [1, 60000]. -/
theorem witness_LevelControlsClamp : clauses (fnat 1) (fnat 60000) 0x3F7FFFFF#32 0x476A6001#32 := by
  unfold clauses
  decide +kernel
/-- The range [0, 1] of SetResonance, SetEnvMod, SetAccent, the distortion controls and the delay levels. -/
theorem witness_unit_range_clamps : clauses (fnat 0) (fnat 1) 0x80000001#32 0x3F800001#32 := by
  unfold clauses
  decide +kernel
/-- The capacity that SetDelayLengthClamps and DelayLengthChangeKeepsTheBuffer ask for. -/
theorem witness_delay_capacity : 1 ≤ delayCap State.reset.config := by decide
theorem witness_InstructionsWriteOnlyRegistersAndLog :
    exec (.setWaveform 2#32) busy = .next { busy with log := [⟨.badWaveform, 2#32⟩] } := by
  rfl
/-- The hypothesis of LogIsAppendOnly: a step that adds a record. -/
theorem witness_LogIsAppendOnly :
    (decoding [0x14, 0x02, 0, 0, 0] 5).constructed = true ∧
    ∃ t, step (decoding [0x14, 0x02, 0, 0, 0] 5) = .next t ∧ t.log = [⟨.badWaveform, 2#32⟩] :=
  ⟨rfl, _, rfl, by decide⟩
theorem witness_OnlyTheHostWritesCommands :
    busy.constructed = true ∧ ∃ t, step busy = .next t ∧ memRead t.cmd 1023 ≠ memRead busy.cmd 1023 :=
  ⟨rfl, _, rfl, by decide⟩
theorem witness_ParametersChangeOnlyByInstructions :
    (rendering playing).constructed = true ∧ (∀ pos, (rendering playing).stage ≠ .decode pos) ∧
    ∃ t, step (rendering playing) = .next t :=
  ⟨rfl, fun _ h => (nomatch h), _, rfl⟩
/-- A sample that is a control tick, and one that is not. -/
theorem witness_SampleIsStoredInBothOutputs :
    (rendering playing).stage = .render 0 ∧ (rendering playing).outL.wf ∧ (rendering playing).outR.wf ∧
    (rendering playing).delayBuf.wf ∧ (1 : Nat) ≠ 0 ∧ (rendering playing).sampleCount.toNat % 64 = 0 ∧
    ({ rendering playing with sampleCount := 63#64 } : State).sampleCount.toNat % 64 ≠ 0 := by decide
/-- Both ends of both index ranges, and a state inside a call. -/
theorem witness_HostReadsSamplesLittleEndian :
    busy.stage = .idle ∧ disjointRegions busy.config ⟨0, 1024, 1536, 2048⟩ = true ∧ 0 < busy.config.blockLen ∧
    127 < busy.config.blockLen ∧ 0 < 4 ∧ 3 < 4 ∧ (rendering playing).stage ≠ .idle := by decide
theorem witness_StoppedSequencerEmitsNothing : (Sequencer.construct decidedConfig).running = false := by decide
theorem witness_PatternSwitchesOnlyAtItsLoop :
    (rendering looping).constructed = true ∧
    ∃ t, step (rendering looping) = .next t ∧ t.seq.currentPattern ≠ (rendering looping).seq.currentPattern :=
  ⟨rfl, _, rfl, by decide +kernel⟩
/-- A step boundary inside the pattern and one at its end, and a count between boundaries. -/
theorem witness_EmittedStepLiesInsideItsPattern :
    ∀ q ∈ [playing, looping, { playing with counter := 0#32 }], q.Legal decidedConfig ∧ q.running = true ∧
      (q.counter = 0#32 → q.counter.toNat + 1 < q.stepLength.toNat) ∧
      (q.counter ≠ 0#32 → q.stepLength.toNat ≤ q.counter.toNat + 1) := by
  intro q hq
  simp only [List.mem_cons, List.not_mem_nil, or_false] at hq
  rcases hq with rfl | rfl | rfl <;>
    exact ⟨⟨by decide, by decide, by decide, by decide, by decide +kernel, by decide +kernel⟩, by decide, by decide, by decide⟩
/-- V-SEQ-6 at tempo 120, with a pattern of one step and one of sixteen. -/
theorem witness_PatternReturnsAfterItsPeriod :
    ∀ n ∈ [(⟨1, by decide⟩ : Fin (Config.maxSteps + 1)), ⟨16, by decide⟩],
      let q : Sequencer := setLength 0 n { Sequencer.construct decidedConfig with running := true }
      q.running = true ∧ q.counter = 0#32 ∧ q.position.val = 0 ∧ q.nextPattern = q.currentPattern ∧
      q.stepLength = Sys2Proof.Claims.stepLength decidedConfig 0x42F00000#32 ∧
      1 ≤ (q.patterns.getD q.currentPattern emptyPattern).length.val := by decide +kernel
/-- A boundary of a running sequencer, and a start under a new tempo. -/
theorem witness_StepLengthChangesAtBoundariesAndStart :
    (∃ t, step (rendering playing) = .next t ∧ t.seq.stepLength ≠ (rendering playing).seq.stepLength) ∧
    (let s : State := { decoding [0x15, 0x01, 0, 0, 0] 5 with params := { Params.construct decidedConfig with tempo := 0x430C0000#32 } }
     ∃ t, step s = .next t ∧ t.seq.stepLength ≠ s.seq.stepLength) :=
  ⟨⟨_, rfl, by decide +kernel⟩, ⟨_, rfl, by decide +kernel⟩⟩
/-- A glide of one tick, the decided one, and of three. -/
theorem witness_SlideEndsOnItsTarget :
    1 ≤ decidedConfig.glideTicks ∧ 0 ≤ decidedConfig.glideTicks ∧
    1 ≤ ({ decidedConfig with glideTicks := 3 } : EngineConfig binary32).glideTicks ∧
    1 + 1 < ({ decidedConfig with glideTicks := 3 } : EngineConfig binary32).glideTicks := by decide
/-- A phase at the end of the table with an increment of many cycles (V-OSC-1, pitch 267), and phase 0 with increment 0. -/
theorem witness_PhaseStaysInsideTheTable :
    decidedConfig.tableLen = 2 ^ 11 ∧ 11 < 32 ∧
    finite (real 0x44FFFFFF#32) = true ∧ fle fzero (real 0x44FFFFFF#32) = true ∧ flt (real 0x44FFFFFF#32) (ftableLen decidedConfig) = true ∧
    finite (real 0x49E72DE9#32) = true ∧ fle fzero (real 0x49E72DE9#32) = true ∧
    finite (fzero : F32) = true ∧ fle (fzero : F32) fzero = true ∧ flt fzero (ftableLen decidedConfig) = true := by decide +kernel
/-- A sine that is 0 at 0 and 1 elsewhere, and a power that is 1. -/
def mathAtOne : WaveMath := ⟨fun x => if x = 0#64 then 0#64 else 0x3FF0000000000000#64, fun _ _ => 0x3FF0000000000000#64⟩
/-- With two entries a cycle, every segment has its fundamental alone. -/
theorem harmonicLimit_small (M : WaveMath) (n : Nat) : harmonicLimit M small n = 1 := by
  simp [harmonicLimit, small]
/-- An entry of that table before normalisation, the same in every segment of both groups. -/
def rawAtOne (j : Nat) : F64 := fadd (fnat 0) (waveTerm mathAtOne small 1 1 j)
theorem waveRaw_small (w n j : Nat) : waveRaw mathAtOne small w n j = rawAtOne j := by
  rw [waveRaw, harmonicLimit_small]
  simp [waveSum, rawAtOne]
/-- The peak of that table's groups. -/
theorem groupPeak_small (w n : Nat) : groupPeak mathAtOne small w (n + 1) = fabs (rawAtOne 1) := by
  have step (p : F64) : segmentPeak mathAtOne small w n small.tableLen p = peakStep (peakStep p (rawAtOne 0)) (rawAtOne 1) := by
    simp only [small, segmentPeak]
    exact congrArg₂ peakStep (congrArg (peakStep p) (waveRaw_small w n 0)) (waveRaw_small w n 1)
  cases n with
  | zero =>
    rw [groupPeak, step, groupPeak]
    decide +kernel
  | succ n =>
    rw [groupPeak, groupPeak_small w n, step]
    decide +kernel
/-- The hypotheses of both clauses of TableStartsAtZeroWithUnitPeak, for the saw and the square. -/
theorem witness_TableStartsAtZeroWithUnitPeak :
    1 ≤ small.tableLen ∧ small.tableLen < 2 ^ 32 ∧ 127 < Config.numNotes ∧ 1 < small.tableLen ∧
    mathAtOne.sin 0#64 = 0#64 ∧
    (∀ n k, 1 ≤ k → k ≤ harmonicLimit mathAtOne small n →
      Sys2Proof.Claims.finite64 (lanczosSigma mathAtOne k (harmonicLimit mathAtOne small n))) ∧
    (∀ w m j, m < Config.numNotes → j < small.tableLen → Sys2Proof.Claims.finite64 (waveRaw mathAtOne small w m j)) ∧
    ∀ w, Sys2Proof.Claims.finite64 (groupPeak mathAtOne small w Config.numNotes) ∧
      0 < (groupPeak mathAtOne small w Config.numNotes).toNat % 2 ^ 63 := by
  refine ⟨by decide, by decide, by decide, by decide, by decide, fun n k h1 h2 => ?_, fun w m j _ hj => ?_, fun w => ?_⟩
  · rw [harmonicLimit_small] at h2 ⊢
    obtain rfl : k = 1 := by omega
    decide +kernel
  · rw [waveRaw_small]
    have hj : j = 0 ∨ j = 1 := by
      simp only [small] at hj
      omega
    rcases hj with rfl | rfl <;> decide +kernel
  · rw [show Config.numNotes = 127 + 1 from rfl, groupPeak_small]
    decide +kernel
/-- A power function that is correctly rounded at the exponents of the notes 0 .. 16, and 0 elsewhere. -/
def tabulated : WaveMath :=
  ⟨id, fun _ x => match (List.range 17).find? (fun n : Nat => fdiv (fint (n - 69 : Int)) (fnat 12) == x) with
    | some n => Sys2Proof.Claims.lowPowers.getD n 0#64
    | none => 0#64⟩
/-- SR/(2 f_n) of note 16: about 1070.3. -/
theorem datum_note16 :
    datum (fdiv (fnat decidedConfig.sampleRate) (fmul (fnat 2) (waveFreq tabulated 16))) =
      .fin false 4707224188563920 (-42) := by decide +kernel
/-- A segment whose next harmonic would fit in the table: one limited by SR/2. -/
theorem witness_next_harmonic :
    harmonicLimit mathAtOne decidedConfig 0 + 1 < decidedConfig.tableLen / 2 ∧
    datum (fdiv (fnat decidedConfig.sampleRate) (fmul (fnat 2)
      (fmul (fnat 440) (mathAtOne.pow (fnat 2) (fdiv (fint ((0 : Nat) - 69 : Int)) (fnat 12)))))) ≠ .nan := by
  decide +kernel
/-- The expressions of the rules on the spec's own numbers: V-SEQ-1 at 120, V-OSC-1's segments of -12, 69 and 267. -/
theorem test_rule_expressions :
    Sys2Proof.Claims.stepLength decidedConfig 0x42F00000#32 = 5512#32 ∧
    Sys2Proof.Claims.segment ⟨0#8, true, false, false, true, false⟩ = 0 ∧
    Sys2Proof.Claims.segment ⟨69#8, true, false, false, false, false⟩ = 69 ∧
    Sys2Proof.Claims.segment ⟨255#8, true, false, false, false, true⟩ = 127 := by decide +kernel
/-- Both forms of the limit's hypotheses: more than the fundamental, and a fundamental below SR/2. -/
theorem witness_SegmentsAreBandLimited :
    Sys2Proof.Claims.AccurateLowPowers tabulated ∧ 1 < harmonicLimit tabulated decidedConfig 16 ∧
    4 ≤ decidedConfig.tableLen ∧
    datum (fdiv (fnat decidedConfig.sampleRate) (fmul (fnat 2) (waveFreq tabulated 16))) ≠ .nan ∧
    Sys2Proof.Claims.below 1 (datum (fdiv (fnat decidedConfig.sampleRate) (fmul (fnat 2) (waveFreq tabulated 16)))) := by
  rw [datum_note16]
  refine ⟨?_, by decide +kernel, by decide, by decide, rfl, by decide⟩
  have h : ∀ n : Nat, n < 17 → tabulated.pow (fnat 2) (fdiv (fint (n - 69 : Int)) (fnat 12)) =
      Sys2Proof.Claims.lowPowers.getD n 0#64 := by decide +kernel
  exact fun n hn => .inl (h n (by omega))
theorem witness_DesignsKeepTheDelayRegisters : finite rInf = false ∧ finite r440 = true := by decide
theorem witness_MoorerDesignsBranchAndGuard : finite r440 = true := by decide
theorem witness_RendersFollowTheirRecursions : (biquadZero : Biquad binary32).bypass = false := by decide
theorem witness_BypassReturnsItsInput : ({ biquadZero with bypass := true } : Biquad binary32).bypass = true := by decide
theorem witness_FixedFiltersAreNeverRedesigned :
    (rendering playing).constructed = true ∧ ∃ t, step (rendering playing) = .next t := ⟨rfl, _, rfl⟩
/-- The threshold at the two ends of the amount (V-SAT-1: 1 and 0.10000002). -/
theorem test_threshold_ends :
    fsub (fnat 1) (fmul (fratio 9 10) (fnat 0)) = (fnat 1 : F32) ∧
    fsub (fnat 1) (fmul (fratio 9 10) (fnat 1)) = real 0x3DCCCCD0#32 := by decide +kernel
/-- The two ends of the band at amount 0 and the two values beside them, and a value in the band and one outside it
at amount 1. -/
theorem witness_SaturatorPassesAndFolds :
    [real 0x3F800000#32, real 0xBF800000#32, real 0x3F800001#32, real 0xBF800001#32].map
      (fun x => fle (fabs x) (fsub (fnat 1) (fmul (fratio 9 10) (fnat 0)))) = [true, true, false, false] ∧
    fle (fabs (real 0x3D4CCCCD#32)) (fsub (fnat 1) (fmul (fratio 9 10) (fnat 1))) = true ∧
    fle (fabs (real 0x3F000000#32)) (fsub (fnat 1) (fmul (fratio 9 10) (fnat 1))) = false := by
  rw [test_threshold_ends.1, test_threshold_ends.2]
  decide +kernel
theorem witness_SaturatorGivesNaNForNonFinite :
    finite rNaN = false ∧ finite rInf = false ∧ finite (real 0xFF800000#32) = false := by decide
/-- `State.reset` with the delay length that `SetDelayLength u` stores. -/
def delaying (u : U32) : State :=
  { State.reset with params := { Params.construct decidedConfig with delayLength := clampDelayLength decidedConfig u } }
/-- The shortest delay, and one of three samples. -/
theorem witness_DelayTapIsOneLengthOld :
    (delaying 1#32).delayBuf.wf ∧ (delaying 1#32).delayPos < (delaying 1#32).params.delayLength ∧
    ([] : List F32).length + 1 = (delaying 1#32).params.delayLength ∧
    ([fone, fzero] : List F32).length + 1 = (delaying 3#32).params.delayLength := by decide +kernel
theorem witness_ImpulseReturnsAfterOneLength :
    let s : State := { State.reset with
      params := { State.reset.params with delaySend := fnat 1, delayFeedback := fnat 0, delayLength := 1 } }
    s.config.denormalBias = fratio 1 (10 ^ 18) ∧ s.params.delaySend = fnat 1 ∧ s.params.delayFeedback = fnat 0 ∧
    1 ≤ s.params.delayLength ∧
    (∀ a, memRead s.delayBuf a = fnat 0) ∧ s.delayBuf.wf ∧ s.delayPos = 0 ∧ 0 ≤ 2 * s.params.delayLength :=
  ⟨by decide +kernel, rfl, rfl, by decide, fun _ => show (fzero : F32) = fnat 0 by decide +kernel, by decide, rfl, by decide⟩
/-- An empty stream, one with room for the last notification, and a full one. -/
theorem witness_NotificationIsTheEncodedStep :
    State.reset.notify.wf ∧ State.reset.notifyLen + 5 ≤ State.reset.config.notifyCap ∧
    ({ State.reset with notifyLen := 635 } : State).notifyLen + 5 ≤ State.reset.config.notifyCap ∧
    State.reset.config.notifyCap < ({ State.reset with notifyLen := 640 } : State).notifyLen + 5 := by decide
/-- The sequencer `playing`, with a step in the slot that it emits next. -/
def emitting (st : Step) : State := rendering (setStepSlot 0 ⟨4, by decide⟩ st playing)
/-- A state whose NOTIFY has room for the notification, and one whose NOTIFY is full. -/
def roomAndFull (s : State) : Prop :=
  s.notify.wf ∧ s.notifyLen + 5 ≤ s.config.notifyCap ∧
  s.config.notifyCap < ({ s with notifyLen := 640 } : State).notifyLen + 5
/-- No step emitted, and a disabled one. -/
theorem witness_RestOnlyNotifies :
    seqAdvance decidedConfig State.reset.params.tempo State.reset.seq = (State.reset.seq, none) ∧
    roomAndFull (emitting emptyStep) ∧
    (seqAdvance (emitting emptyStep).config (emitting emptyStep).params.tempo (emitting emptyStep).seq).2 = some (⟨4, by decide⟩, emptyStep) ∧
    emptyStep.enabled = false := by
  unfold roomAndFull
  decide +kernel
/-- An enabled slide step, without and with an accent. -/
theorem witness_SlideStepIsLegato :
    ∀ st ∈ [(⟨45#8, true, false, true, false, false⟩ : Step), ⟨45#8, true, true, true, false, false⟩],
      roomAndFull (emitting st) ∧
      (seqAdvance (emitting st).config (emitting st).params.tempo (emitting st).seq).2 = some (⟨4, by decide⟩, st) ∧
      st.enabled = true ∧ st.slide = true := by
  unfold roomAndFull
  decide +kernel
/-- An enabled step without slide, without and with an accent. -/
theorem witness_NewNoteRetriggers :
    ∀ st ∈ [(⟨45#8, true, false, false, false, false⟩ : Step), ⟨45#8, true, true, false, false, false⟩],
      roomAndFull (emitting st) ∧
      (seqAdvance (emitting st).config (emitting st).params.tempo (emitting st).seq).2 = some (⟨4, by decide⟩, st) ∧
      st.enabled = true ∧ st.slide = false := by
  unfold roomAndFull
  decide +kernel
/-- A control tick, and the last sample before the next one. -/
theorem witness_SampleDecaysAndTicks :
    (∃ t, step (rendering playing) = .next t) ∧ (rendering playing).stage = .render 0 ∧
    (rendering playing).sampleCount.toNat % 64 = 0 ∧
    (∃ t, step { rendering playing with sampleCount := 63#64 } = .next t) ∧
    ({ rendering playing with sampleCount := 63#64 } : State).sampleCount.toNat % 64 ≠ 0 :=
  ⟨⟨_, rfl⟩, rfl, by decide, ⟨_, rfl⟩, by decide⟩
/-- A sample that writes the delay RAM: under a NaN send level the stored value is a NaN, whatever the sample. -/
theorem witness_DelayRamIsWrittenAtItsPositionOnly :
    let s : State := { rendering (Sequencer.construct decidedConfig) with params := { Params.construct decidedConfig with delaySend := rNaN } }
    s.constructed = true ∧ ∃ t, step s = .next t ∧ memRead t.delayBuf 0 ≠ memRead s.delayBuf 0 := by
  intro s
  refine ⟨rfl, _, rfl, ?_⟩
  obtain ⟨y, e⟩ := (voiceRender_frame s).2.2.2.2.2.1
  have h : isNaN (fadd (fadd (fmul s.params.delaySend y) (fmul s.params.delayFeedback (memRead s.delayBuf s.delayPos)))
      s.config.denormalBias) = true :=
    isNaN_fadd_left _ (isNaN_fadd_left _ (isNaN_fmul_left y (by decide)))
  simp only [storeSample_delayBuf, e]
  rw [show (0 : Nat) = s.delayPos from rfl, memRead_memWrite_same (by decide) _ _]
  intro hc
  rw [hc] at h
  exact absurd h (by decide)

end Sys2Proof.Tests
end

section
/-! PROOFS of the family 00_scope.md: what an instruction leaves unchanged (40_decoder.md R151), and that no step
changes the implementation parameters (00_scope.md R8). -/

namespace Sys2Proof.Machine

/-! ## What an instruction leaves unchanged -/

/-- The frame of an instruction: every element of the state but the log, the parameter registers, the sequencer, the
swept cutoff and the ladder's coefficients. -/
structure SameOutsideRegisters (s t : State) : Prop where
  config : t.config = s.config
  stage : t.stage = s.stage
  cursor : t.cursor = s.cursor
  returned : t.returned = s.returned
  host : t.host = s.host
  cmd : t.cmd = s.cmd
  outL : t.outL = s.outL
  outR : t.outR = s.outR
  notify : t.notify = s.notify
  notifyLen : t.notifyLen = s.notifyLen
  delayBuf : t.delayBuf = s.delayBuf
  delayPos : t.delayPos = s.delayPos
  osc : t.osc = s.osc
  hp1 : t.hp1 = s.hp1
  ap : t.ap = s.ap
  hp2 : t.hp2 = s.hp2
  notch : t.notch = s.notch
  declick : t.declick = s.declick
  ladder : t.ladder = { s.ladder with b0 := t.ladder.b0, g := t.ladder.g, k := t.ladder.k }
  ampEnv : t.ampEnv = s.ampEnv
  filtEnv : t.filtEnv = s.filtEnv
  ampMul : t.ampMul = s.ampMul
  filtMul : t.filtMul = s.filtMul
  accentActive : t.accentActive = s.accentActive
  sampleCount : t.sampleCount = s.sampleCount

/-- A redesign writes the ladder's coefficients only: its stages and its feedback high-pass stay (R304). -/
theorem ladderDesign_registers (c : EngineConfig binary32) (ld : Ladder binary32) (fc res : F32) :
    ladderDesign c ld fc res = { ld with
      b0 := (ladderDesign c ld fc res).b0
      g := (ladderDesign c ld fc res).g
      k := (ladderDesign c ld fc res).k } := rfl

/-- Only the shape with a redesign writes anything outside the registers and the log: the ladder. -/
theorem ExecShape.sameOutsideRegisters {s t : State} (h : ExecShape s t) : SameOutsideRegisters s t := by
  cases h with
  | skip => constructor <;> rfl
  | params f => constructor <;> rfl
  | seq f => constructor <;> rfl
  | logged k u _ => constructor <;> rfl
  | redesigned f =>
    constructor
    case ladder => exact ladderDesign_registers ..
    all_goals simp

theorem exec_sameOutsideRegisters {i : Instr} {s t : State} (h : exec i s = .next t) : SameOutsideRegisters s t := by
  obtain ⟨u, hu, shape⟩ := exec_shape i s
  cases hu.symm.trans h
  exact shape.sameOutsideRegisters

/-- Settles O29: every instruction's effect has one of the five shapes of `ExecShape`, and each keeps the frame. -/
theorem instructionsWriteOnlyRegistersAndLog : Obligations.InstructionsWriteOnlyRegistersAndLog := by
  intro i s t h
  have frame := exec_sameOutsideRegisters h
  exact ⟨frame.config, frame.stage, frame.cursor, frame.returned, frame.host,
    fun a => congrArg (memRead · a) frame.cmd, fun a => congrArg (memRead · a) frame.outL,
    fun a => congrArg (memRead · a) frame.outR, fun a => congrArg (memRead · a) frame.notify,
    frame.notifyLen, fun a => congrArg (memRead · a) frame.delayBuf, frame.delayPos,
    frame.osc, frame.hp1, frame.ap, frame.hp2, frame.notch, frame.declick, frame.ladder,
    frame.ampEnv, frame.filtEnv, frame.ampMul, frame.filtMul, frame.accentActive, frame.sampleCount⟩

/-! ## The implementation parameters -/

@[simp] theorem construct_config (c : EngineConfig binary32) : (State.construct c).config = c := rfl

@[simp] theorem hostMove_config (c : HostCall) (s : State) : (hostMove c s).config = s.config := by
  cases c with
  | callInitialize => exact initializeEngine_config s
  | writeCmd offset byte => rfl
  | process validLength => exact beginProcess_config s validLength

@[simp] theorem voiceRender_config (s : State) : (voiceRender s).1.config = s.config :=
  (voiceRender_frame s).1.config

/-- Settles O18, by the kinds of step: no kind writes `config`, and construction builds on the parameters that stand
there. -/
theorem parametersOfTheEngineNeverChange : Obligations.ParametersOfTheEngineNeverChange := by
  intro s t h
  obtain ⟨-, rfl⟩ | ⟨-, -, rfl⟩ | ⟨-, c, rest, -, rfl⟩ | ⟨pos, i, rest, -, -, hexec⟩ | ⟨pos, e, -, -, rfl⟩ |
    ⟨i, -, rfl⟩ := step_cases h
  · exact construct_config s.config
  · rfl
  · exact hostMove_config c { s with host := rest }
  · exact (exec_sameOutsideRegisters hexec).config
  · exact endDecode_config s
  · exact (storeSample_config (voiceRender s).1 i (voiceRender s).2).trans (voiceRender_config s)

end Sys2Proof.Machine
end

section
/-! PROOFS of the family 10_state.md: what each kind of step writes of the log, CMD, the registers and the delay RAM,
what a sample leaves, and what the host sees of it. -/

namespace Sys2Proof.Machine

/-! ## The log (R61) -/

/-- Every record that an instruction adds is of another kind than NotifyOverflow (R432). -/
theorem ExecShape.log_eq_or_append {s t : State} (h : ExecShape s t) :
    t.log = s.log ∨ ∃ r : LogRecord, t.log = s.log ++ [r] ∧ r.kind ≠ .notifyOverflow := by
  cases h with
  | skip => exact .inl rfl
  | params f => exact .inl rfl
  | seq f => exact .inl rfl
  | logged k u hk => exact .inr ⟨⟨k, u⟩, rfl, hk⟩
  | redesigned f => exact .inl (by simp)

theorem exec_log {i : Instr} {s t : State} (h : exec i s = .next t) :
    t.log = s.log ∨ ∃ r : LogRecord, t.log = s.log ++ [r] ∧ r.kind ≠ .notifyOverflow := by
  obtain ⟨u, hu, shape⟩ := exec_shape i s
  cases hu.symm.trans h
  exact shape.log_eq_or_append

@[simp] theorem hostMove_log (c : HostCall) (s : State) : (hostMove c s).log = s.log := by
  cases c with
  | callInitialize => exact initializeEngine_log s
  | writeCmd offset byte => rfl
  | process validLength => exact beginProcess_log s validLength

theorem voiceSequence_log_prefix (s : State) : s.log <+: (voiceSequence s).log := by
  obtain ⟨-, same⟩ | ⟨p, st, -, ⟨-, -, -, log⟩ | ⟨-, -, -, log⟩⟩ := voiceSequence_notify s
  · rw [same.log]
  · rw [log]
  · rw [log]
    exact List.prefix_append ..

/-- With room for a notification, the sequencer's part of a sample logs nothing (R394). -/
theorem voiceSequence_log_of_room {s : State} (room : s.notifyLen + 5 ≤ s.config.notifyCap) :
    (voiceSequence s).log = s.log := by
  obtain ⟨-, same⟩ | ⟨p, st, -, ⟨-, -, -, log⟩ | ⟨full, -⟩⟩ := voiceSequence_notify s
  · exact same.log
  · exact log
  · omega

/-- An engine that exists is past its construction (R434). -/
theorem State.stage_ne_constructing {s : State} (hs : s.constructed = true) (r : Bool) : s.stage ≠ .constructing r :=
  fun hc => by simp [State.constructed, hc] at hs

/-- Settles O30, by the kinds of step: an instruction or a full notification stream appends one record, and no other
step writes the log. -/
theorem logIsAppendOnly : Obligations.LogIsAppendOnly := by
  intro s t hs h
  obtain ⟨-, -, rfl⟩ | ⟨-, c, rest, -, rfl⟩ | ⟨pos, i, rest, -, -, hexec⟩ | ⟨pos, e, -, -, rfl⟩ | ⟨i, -, rfl⟩ :=
    (step_cases h).resolve_left fun hc => State.stage_ne_constructing hs _ hc.1
  · exact List.prefix_rfl
  · rw [hostMove_log]
  · obtain log | ⟨r, log, -⟩ := exec_log hexec
    · rw [log]
    · rw [log]
      exact List.prefix_append ..
  · rw [endDecode_log]
  · rw [storeSample_log, (voiceRender_frame s).2.1.log]
    exact voiceSequence_log_prefix s

/-! ## Who writes CMD, the parameters and the delay RAM -/

/-- A host move changes a byte of CMD only where it writes one (R99). -/
theorem writeCmd_of_memRead_hostMove_ne {c : HostCall} {s : State} {a : Nat}
    (h : memRead (hostMove c s).cmd a ≠ memRead s.cmd a) : a < s.config.cmdCap ∧ ∃ b, c = .writeCmd a b := by
  cases c with
  | callInitialize => exact absurd rfl h
  | process validLength => exact absurd rfl h
  | writeCmd offset byte =>
    simp only [hostMove] at h
    split at h
    · have same : a = offset := by
        by_contra other
        exact h (memRead_memWrite_other byte other)
      subst same
      exact ⟨‹_›, byte, rfl⟩
    · exact absurd rfl h

/-- Settles O31, by the kinds of step: no kind but a host move writes CMD. -/
theorem onlyTheHostWritesCommands : Obligations.OnlyTheHostWritesCommands := by
  intro s t hs h a changed
  obtain ⟨-, -, rfl⟩ | ⟨idle, c, rest, host, rfl⟩ | ⟨pos, i, rest, -, -, hexec⟩ | ⟨pos, e, -, -, rfl⟩ | ⟨i, -, rfl⟩ :=
    (step_cases h).resolve_left fun hc => State.stage_ne_constructing hs _ hc.1
  · exact absurd rfl changed
  · obtain ⟨inside, b, rfl⟩ := writeCmd_of_memRead_hostMove_ne changed
    exact ⟨idle, inside, b, rest, host⟩
  · exact absurd (congrArg (memRead · a) (exec_sameOutsideRegisters hexec).cmd) changed
  · exact absurd rfl changed
  · exact absurd (congrArg (memRead · a) (voiceRender_frame s).1.cmd) changed

/-- No advance of the sequencer writes `running`, the queued pattern or the bank (R170). -/
theorem seqAdvance_frame (c : EngineConfig binary32) (tempo : F32) (q : Sequencer) :
    (seqAdvance c tempo q).1.patterns = q.patterns ∧ (seqAdvance c tempo q).1.nextPattern = q.nextPattern ∧
    (seqAdvance c tempo q).1.running = q.running := by
  obtain ⟨-, e⟩ | ⟨-, -, e⟩ | ⟨-, -, e⟩ := seqAdvance_cases c tempo q <;> rw [e]
  · exact ⟨rfl, rfl, rfl⟩
  · exact ⟨rfl, rfl, rfl⟩
  · obtain ⟨running, -, -, next, patterns⟩ := seqBoundary_frame c tempo q
    exact ⟨patterns, next, running⟩

@[simp] theorem hostMove_params (c : HostCall) (s : State) : (hostMove c s).params = s.params := by
  cases c with
  | callInitialize => exact initializeEngine_params s
  | writeCmd offset byte => rfl
  | process validLength => exact beginProcess_params s validLength

/-- A host move writes no element of the sequencer but its counter (R462). -/
theorem hostMove_seq (c : HostCall) (s : State) :
    (hostMove c s).seq = { s.seq with counter := (hostMove c s).seq.counter } := by
  cases c with
  | callInitialize => exact initializeEngine_seq s
  | writeCmd offset byte => rfl
  | process validLength => exact beginProcess_seq s validLength

/-- Settles O32, by the kinds of step outside the decode phase. -/
theorem parametersChangeOnlyByInstructions : Obligations.ParametersChangeOnlyByInstructions := by
  intro s t hs outside h
  obtain ⟨-, -, rfl⟩ | ⟨-, c, rest, -, rfl⟩ | ⟨pos, i, rest, decoding, -⟩ | ⟨pos, e, decoding, -⟩ | ⟨i, -, rfl⟩ :=
    (step_cases h).resolve_left fun hc => State.stage_ne_constructing hs _ hc.1
  · exact ⟨rfl, rfl, rfl, rfl⟩
  · rw [hostMove_params, hostMove_seq]
    exact ⟨rfl, rfl, rfl, rfl⟩
  · exact absurd decoding (outside pos)
  · exact absurd decoding (outside pos)
  · obtain ⟨control, -, -, seq, -⟩ := voiceRender_frame s
    rw [storeSample_params, storeSample_seq, seq]
    exact ⟨control.params, seqAdvance_frame s.config s.params.tempo s.seq⟩

@[simp] theorem hostMove_delayBuf (c : HostCall) (s : State) : (hostMove c s).delayBuf = s.delayBuf := by
  cases c with
  | callInitialize => exact initializeEngine_delayBuf s
  | writeCmd offset byte => rfl
  | process validLength => exact beginProcess_delayBuf s validLength

/-- Settles O60, by the kinds of step: only a sample writes the delay RAM, one element of it (R345). -/
theorem delayRamIsWrittenAtItsPositionOnly : Obligations.DelayRamIsWrittenAtItsPositionOnly := by
  intro s t hs h a changed
  obtain ⟨-, -, rfl⟩ | ⟨-, c, rest, -, rfl⟩ | ⟨pos, i, rest, -, -, hexec⟩ | ⟨pos, e, -, -, rfl⟩ | ⟨i, render, rfl⟩ :=
    (step_cases h).resolve_left fun hc => State.stage_ne_constructing hs _ hc.1
  · exact absurd rfl changed
  · exact absurd (congrArg (memRead · a) (hostMove_delayBuf c { s with host := rest })) changed
  · exact absurd (congrArg (memRead · a) (exec_sameOutsideRegisters hexec).delayBuf) changed
  · exact absurd rfl changed
  · obtain ⟨-, -, -, -, -, ⟨y, written⟩, -⟩ := voiceRender_frame s
    rw [storeSample_delayBuf, written] at changed
    refine ⟨⟨i, render⟩, ?_⟩
    by_contra other
    exact changed (memRead_memWrite_other _ other)

/-! ## The end of the decode phase and the host's writes -/

/-- Settles O8: the fetch window shows the same stop as the whole stream, and the step is then `endDecode`. -/
theorem decodePhaseEndsWithoutError : Obligations.DecodePhaseEndsWithoutError := by
  intro s pos e decoding stop
  have window : decode (fetchWindow s pos) = .error e := by
    rw [fetchWindow_eq_take]
    exact decode_take_five_error stop
  simp only [step_decode decoding, stepDecode, window, endDecode]

/-- Settles O13: by whether CMD has the offset. -/
theorem hostWriteReachesCommandBuffer : Obligations.HostWriteReachesCommandBuffer := by
  intro s off b rest idle wf host
  refine ⟨hostMove (.writeCmd off b) { s with host := rest }, ?_, ?_, ?_, rfl⟩
  · simp only [step_idle idle, stepIdle, host]
  · intro inside
    simp only [hostMove, if_pos inside]
    exact memRead_memWrite_same wf off b
  · intro a elsewhere
    simp only [hostMove]
    split
    · exact memRead_memWrite_other b (elsewhere.resolve_right (by omega))
    · rfl

/-! ## What the host reads -/

/-- Byte `k` of a stored sample stands at offset 4 × i + k (R84). -/
theorem extractLsb'_readSample (m : Memory 8) (i : Nat) {k : Nat} (hk : k < 4) :
    (readSample m i).extractLsb' (8 * k) 8 = memRead m (4 * i + k) := by
  have bytes := bytesOf32_le32 (memRead m (4 * i)) (memRead m (4 * i + 1)) (memRead m (4 * i + 2))
    (memRead m (4 * i + 3))
  simp only [bytesOf32, List.cons.injEq, and_true] at bytes
  obtain ⟨b0, b1, b2, b3⟩ := bytes
  match k, hk with
  | 0, _ => exact b0
  | 1, _ => exact b1
  | 2, _ => exact b2
  | 3, _ => exact b3

/-- The byte at offset `off` of OUTL and of OUTR, at the regions' bases: no other region stands there (R81). -/
theorem regionByte_outputs {r : RegionBases} {s : State} (apart : disjointRegions s.config r = true) {off : Nat}
    (inside : off < outBytes s.config) :
    regionByte r s (r.outL + off) = some (memRead s.outL off) ∧
    regionByte r s (r.outR + off) = some (memRead s.outR off) := by
  simp only [disjointRegions, Machine.apart, Bool.and_eq_true, Bool.or_eq_true, decide_eq_true_eq] at apart
  obtain ⟨⟨⟨⟨⟨cmdL, cmdR⟩, -⟩, outs⟩, -⟩, -⟩ := apart
  constructor
  · rw [regionByte, if_neg (by omega), if_pos (by omega), Nat.add_sub_cancel_left]
  · rw [regionByte, if_neg (by omega), if_neg (by omega), if_pos (by omega), Nat.add_sub_cancel_left]

/-- Settles O34: an idle engine shows the byte that stands in the region, and no other stage shows any. -/
theorem hostReadsSamplesLittleEndian : Obligations.HostReadsSamplesLittleEndian := by
  intro r s
  constructor
  · intro idle disjoint i k hi hk
    obtain ⟨left, right⟩ := regionByte_outputs disjoint (off := 4 * i + k) (by simp only [outBytes]; omega)
    simp only [hostByte, if_pos idle, Nat.add_assoc, extractLsb'_readSample _ i hk]
    exact ⟨left, right⟩
  · intro busy
    exact ⟨if_neg busy, fun a => if_neg busy⟩

/-! ## The signal path of a sample and the rules' expressions -/

theorem fnat_zero : (fnat 0 : F32) = fzero := by decide +kernel

theorem sweptCutoffOf_eq_swept (c : EngineConfig binary32) (p : Params binary32) (accent : Bool) (filtEnv : F32) :
    sweptCutoffOf c p accent filtEnv = Claims.swept c p accent filtEnv := rfl

theorem ladderDesign_eq_redesigned (c : EngineConfig binary32) (ld : Ladder binary32) (fc res : F32) :
    ladderDesign c ld fc res = Claims.redesigned c ld fc res := rfl

/-- A ladder with a design's coefficients keeps them under a second design of the same settings, after any render
(R304, R305). -/
theorem redesigned_ladderRender_redesigned (c : EngineConfig binary32) (ld : Ladder binary32) (fc res x : F32) :
    Claims.redesigned c (ladderRender c (Claims.redesigned c ld fc res) x).1 fc res =
      (ladderRender c (Claims.redesigned c ld fc res) x).1 := rfl

theorem wrapPhase_fadd_eq_advanced (c : EngineConfig binary32) (phase inc : F32) :
    wrapPhase c (fadd phase inc) = Claims.advanced c phase inc := by
  simp only [Claims.advanced, fnat_zero]
  rfl

theorem advancePhase_eq_advanced (c : EngineConfig binary32) (o : Oscillator binary32) :
    advancePhase c o = { o with phase := Claims.advanced c o.phase o.inc } := by
  rw [advancePhase, wrapPhase_fadd_eq_advanced]

/-- R216: a glide at its end stays there, since 0 - 1 is 0. -/
theorem oscUpdate_eq_glided (o : Oscillator binary32) : oscUpdate o = Claims.glided o := by
  by_cases ended : o.glideLeft = 0
  · obtain ⟨⟩ := o
    simp_all [oscUpdate, Claims.glided]
  · simp only [oscUpdate, Claims.glided, if_neg ended]

/-- Settles O33: what the signal path writes (`voiceRender_written`), read back from the memories. -/
theorem sampleIsStoredInBothOutputs : Obligations.SampleIsStoredInBothOutputs := by
  intro s i render wfL wfR wfD
  obtain ⟨sample, hp1, ladder, ap, hp2, notch, declick, buf, pos⟩ := voiceRender_written s
  obtain ⟨control, -⟩ := voiceRender_frame s
  simp only [oscSample_eq, sweptCutoffOf_eq_swept, ladderDesign_eq_redesigned] at sample hp1 ladder ap hp2 notch declick buf
  refine ⟨storeSample i (voiceRender s).2 (voiceRender s).1, step_render render, ⟨?_, ?_, fun j other => ⟨?_, ?_⟩⟩,
    ⟨hp1, ladder, ap, hp2, notch, declick⟩, pos, ?_, fun d other => ?_⟩
  · rw [storeSample_outL, control.outL, readSample_writeSample_same wfL]
    exact sample
  · rw [storeSample_outR, control.outR, readSample_writeSample_same wfR]
    exact sample
  · rw [storeSample_outL, control.outL, readSample_writeSample_other _ other]
  · rw [storeSample_outR, control.outR, readSample_writeSample_other _ other]
  · rw [storeSample_delayBuf, buf]
    exact memRead_memWrite_same wfD _ _
  · rw [storeSample_delayBuf, buf, memRead_memWrite_other _ other]

/-- Settles O59, by whether the sample is a control tick. -/
theorem sampleDecaysAndTicks : Obligations.SampleDecaysAndTicks := by
  intro s t i render h
  cases (step_render render).symm.trans h
  obtain ⟨control, notify, -, seq, count, -⟩ := voiceRender_frame s
  obtain ⟨accent, ampMul, filtMul, ampEnv, filtEnv, osc, swept, y, ladder⟩ := voiceRender_control s
  refine ⟨⟨seq.trans (voiceSequence_frame s).2.2.symm, notify.notify, notify.notifyLen, notify.log⟩, count, ampEnv,
    filtEnv, ampMul, filtMul, accent, fun noTick => ?_, fun tick => ?_, control.config, control.params, control.cmd,
    control.cursor, control.host, ?_, ?_⟩
  · rw [if_neg noTick] at osc swept ladder
    rw [advancePhase_eq_advanced] at osc
    refine ⟨osc, (congrArg Oscillator.glideLeft osc :), swept, ?_⟩
    rw [storeSample_ladder, ladder]
    exact ladderRender_coefficients s.config s.ladder y
  · rw [if_pos tick] at osc swept ladder
    rw [advancePhase_eq_advanced, oscUpdate_eq_glided] at osc
    refine ⟨osc, swept, ?_⟩
    rw [storeSample_ladder, storeSample_sweptCutoff, swept, ladder]
    exact (redesigned_ladderRender_redesigned ..).symm
  · rw [storeSample_stage, nextStage, control.config]
  · rw [storeSample_returned, returnedAfter, control.config, control.returned, control.cursor]

end Sys2Proof.Machine
end

section
/-! PROOFS of the family 10_state.md: every step keeps the state legal. -/

namespace Sys2Proof.Machine

/-! ## The host's moves and the end of the decode phase -/

/-- A restarted counter is below the step length (R176, R462). -/
theorem counter_zero_legal {c : EngineConfig binary32} {q : Sequencer} (h : q.Legal c) :
    ({ q with counter := 0#32 } : Sequencer).Legal c :=
  { h with counter := h.stepLength }

/-- The host's calls that are still to come are free: no part of legality speaks of them. -/
theorem State.Legal.setHost {s : State} (h : s.Legal) (rest : List HostCall) : State.Legal { s with host := rest } :=
  { h with }

theorem hostMove_legal {s : State} (h : s.Legal) (c : HostCall) : (hostMove c s).Legal := by
  cases c with
  | callInitialize => exact { h with seq := counter_zero_legal h.seq }
  | writeCmd offset byte =>
    refine { h with cmd := ?_ }
    simp only [hostMove]
    split
    · exact memWrite_within h.cmd ‹_› byte
    · exact h.cmd
  | process validLength =>
    exact { h with
      stage := ⟨Nat.zero_le _, rfl⟩
      cursor := Nat.min_le_right ..
      notifyLen := ⟨rfl, Nat.zero_le _⟩ }

/-- What a legal decode phase's position satisfies (R21). -/
theorem State.Legal.stage_decode {s : State} (h : s.Legal) {pos : Nat} (decoding : s.stage = .decode pos) :
    pos ≤ s.cursor ∧ s.notifyLen = 0 := by
  have := h.stage
  rwa [decoding] at this

/-- What a legal render loop's sample satisfies (R22, R394). -/
theorem State.Legal.stage_render {s : State} (h : s.Legal) {i : Nat} (render : s.stage = .render i) :
    s.cursor = 0 ∧ i < s.config.blockLen ∧ s.notifyLen ≤ 5 * i := by
  have := h.stage
  rwa [render] at this

theorem endDecode_legal {s : State} (h : s.Legal) {pos : Nat} (decoding : s.stage = .decode pos) :
    (endDecode s).Legal :=
  { h with
    stage := ⟨rfl, h.config.blockLen.1, (h.stage_decode decoding).2.le⟩
    cursor := Nat.zero_le _ }

/-! ## Instructions -/

theorem size_le_five (i : Instr) : i.size ≤ 5 := by
  unfold Instr.size
  split <;> decide

/-- A decoded instruction is no longer than the bytes it was decoded from (R121, R142). -/
theorem size_le_length_of_decode {bs rest : List U8} {i : Instr} (h : decode bs = .ok (i, rest)) :
    i.size ≤ bs.length := by
  rcases bs with _ | ⟨c, tl⟩
  · cases h
  · simp only [decode] at h
    split at h
    · cases h
      simp [Instr.size, Instr.operand]
    · split at h
      · have := size_le_five i
        simp only [List.length_cons]
        omega
      · cases h

theorem length_fetchWindow (s : State) (pos : Nat) : (fetchWindow s pos).length = min 5 (s.cursor - pos) := by
  simp [fetchWindow, memReadBytes]

/-- The read position after a decoded instruction is not past the cursor (R21). -/
theorem pos_add_size_le_cursor {s : State} {pos : Nat} {i : Instr} {rest : List U8} (hpos : pos ≤ s.cursor)
    (h : decode (fetchWindow s pos) = .ok (i, rest)) : pos + i.size ≤ s.cursor := by
  have := size_le_length_of_decode h
  rw [length_fetchWindow] at this
  omega

/-- A delay length that the register takes (R354). -/
theorem clampDelayLength_legal {c : EngineConfig binary32} (hc : ConfigLegal c) (u : U32) :
    1 ≤ clampDelayLength c u ∧ clampDelayLength c u ≤ delayCap c := by
  have := hc.sampleRate.1
  simp only [clampDelayLength, delayCap]
  omega

/-- A register of range 0 to 1 keeps it (R25). -/
theorem sanitise_unit {old : F32} (h : inRange fzero fone old) (v : F32) :
    inRange fzero fone (sanitise fzero fone old v) := by
  obtain ⟨zero, one, -, -, le, -⟩ := range_ends
  exact sanitise_inRange zero one le h

theorem fclamp_unit {v : F32} (h : finite v = true) : inRange fzero fone (fclamp v fzero fone) := by
  obtain ⟨zero, one, -, -, le, -⟩ := range_ends
  exact fclamp_inRange h zero one le

/-- A clamped cutoff is in range, since F_MAX is at least 500.0 (R24). -/
theorem fclamp_cutoff {c : EngineConfig binary32} (hc : ConfigLegal c) {v : F32} (h : finite v = true) :
    inRange fone c.fMax (fclamp v fone c.fMax) := by
  obtain ⟨-, one, -, -, -, le, -⟩ := range_ends
  exact fclamp_inRange h one hc.fMax.1 (fle_trans le hc.fMax.2)

theorem sanitise_decay {old : F32} (h : inRange fone (fnat 60000) old) (v : F32) :
    inRange fone (fnat 60000) (sanitise fone (fnat 60000) old v) := by
  obtain ⟨-, one, most, -, -, -, le, -⟩ := range_ends
  exact sanitise_inRange one most le h

/-- Every instruction keeps the parameter registers and the sequencer legal (R25, R176, R432). -/
theorem exec_registers_legal {i : Instr} {s t : State} (hc : ConfigLegal s.config) (hp : s.params.Legal s.config)
    (hq : s.seq.Legal s.config) (h : exec i s = .next t) : t.params.Legal s.config ∧ t.seq.Legal s.config := by
  cases i with
  | nop => cases h; exact ⟨hp, hq⟩
  | stepChanged u => cases h; exact ⟨hp, hq⟩
  | setWaveform u =>
    simp only [exec, execSetWaveform] at h
    split at h <;> cases h
    · exact ⟨hp, hq⟩
    · exact ⟨{ hp with }, hq⟩
  | setRunning u =>
    simp only [exec, execSetRunning] at h
    split at h
    · cases h
      exact ⟨hp, { hq with }⟩
    · split at h <;> cases h
      · exact ⟨hp, hq⟩
      · exact ⟨hp, seqStart_legal s.config s.params.tempo hq⟩
  | setStep u =>
    simp only [exec, execSetStep] at h
    split at h <;> cases h
    · exact ⟨hp, hq⟩
    · exact ⟨hp, setStepSlot_legal hq _ _ _⟩
  | setPatternLength u =>
    simp only [exec, execSetPatternLength] at h
    split at h <;> cases h
    · exact ⟨hp, hq⟩
    · rename_i good
      refine ⟨hp, setLength_legal hq _ ?_⟩
      simp only [badPatternLength, Bool.or_eq_true, decide_eq_true_eq, not_or] at good
      obtain ⟨⟨-, positive⟩, -⟩ := good
      exact Nat.one_le_iff_ne_zero.mpr positive
  | setNextPattern u =>
    simp only [exec, execSetNextPattern] at h
    split at h <;> cases h
    · exact ⟨hp, hq⟩
    · rename_i good
      exact ⟨hp, { hq with nextPattern := by simpa [badPatternIndex] using good }⟩
  | setDelayLength u => cases h; exact ⟨{ hp with delayLength := clampDelayLength_legal hc u }, hq⟩
  | setCutoff v =>
    simp only [exec, execSetCutoff, convert_self] at h
    split at h <;> cases h
    · exact ⟨{ hp with cutoff := fclamp_cutoff hc ‹_› }, hq⟩
    · exact ⟨hp, hq⟩
  | setResonance v =>
    simp only [exec, execSetResonance, convert_self] at h
    split at h <;> cases h
    · exact ⟨{ hp with resonance := fclamp_unit ‹_› }, hq⟩
    · exact ⟨hp, hq⟩
  | setEnvMod v =>
    simp only [exec, execSetEnvMod, convert_self] at h
    split at h <;> cases h
    · exact ⟨{ hp with envMod := fclamp_unit ‹_› }, hq⟩
    · exact ⟨hp, hq⟩
  | setDecay v => cases h; exact ⟨{ hp with decay := sanitise_decay hp.decay v }, hq⟩
  | setAccent v => cases h; exact ⟨{ hp with accentDepth := sanitise_unit hp.accentDepth v }, hq⟩
  | setDistortionShape v => cases h; exact ⟨{ hp with distShape := sanitise_unit hp.distShape v }, hq⟩
  | setDistortionThreshold v => cases h; exact ⟨{ hp with distAmount := sanitise_unit hp.distAmount v }, hq⟩
  | setDelaySend v => cases h; exact ⟨{ hp with delaySend := sanitise_unit hp.delaySend v }, hq⟩
  | setDelayFeedback v => cases h; exact ⟨{ hp with delayFeedback := sanitise_unit hp.delayFeedback v }, hq⟩
  | setTempo v =>
    cases h
    obtain ⟨range, positive⟩ := sanitiseTempo_legal (v := v) hp.tempo hp.tempoPositive
    exact ⟨{ hp with tempo := range, tempoPositive := positive }, hq⟩

/-- An instruction logs no lost notification (R432). -/
theorem exec_noOverflow {i : Instr} {s t : State} (h : exec i s = .next t)
    (clean : ∀ r ∈ s.log, r.kind ≠ .notifyOverflow) : ∀ r ∈ t.log, r.kind ≠ .notifyOverflow := by
  obtain log | ⟨r, log, hr⟩ := exec_log h <;> rw [log]
  · exact clean
  · simpa [or_imp, forall_and] using ⟨clean, hr⟩

/-- All that an instruction's next state has of its own (R151). -/
theorem ExecShape.eq_with_registers {s t : State} (h : ExecShape s t) :
    t = { s with log := t.log, params := t.params, seq := t.seq, sweptCutoff := t.sweptCutoff, ladder := t.ladder } := by
  cases h <;> rfl

theorem exec_legal {i : Instr} {s t : State} (hs : s.Legal) (h : exec i s = .next t) : t.Legal := by
  obtain ⟨params, seq⟩ := exec_registers_legal hs.config hs.params hs.seq h
  have noOverflow := fun room => exec_noOverflow h (hs.noOverflow room)
  obtain ⟨u, hu, shape⟩ := exec_shape i s
  cases hu.symm.trans h
  rw [shape.eq_with_registers]
  exact { hs with params := params, seq := seq, noOverflow := noOverflow }

/-- Past a decoded instruction, the read position is still not past the cursor. -/
theorem fetched_legal {s : State} (h : s.Legal) {pos : Nat} {i : Instr} {rest : List U8}
    (decoding : s.stage = .decode pos) (fetch : decode (fetchWindow s pos) = .ok (i, rest)) :
    State.Legal { s with stage := .decode (pos + i.size) } := by
  obtain ⟨hpos, empty⟩ := h.stage_decode decoding
  exact { h with stage := ⟨pos_add_size_le_cursor hpos fetch, empty⟩ }

/-! ## Samples -/

/-- A slide starts a glide's countdown and a new note cancels it (R211, R212). -/
theorem playStep_glideLeft (st : Step) (s : State) :
    (playStep st s).osc.glideLeft = if st.slide then s.config.glideTicks else 0 := by
  unfold playStep
  split <;> rfl

@[simp] theorem pushNotify_osc (p : Fin Config.maxSteps) (s : State) : (pushNotify p s).osc = s.osc := by
  obtain ⟨-, -, -, osc, -⟩ := pushNotify_frame p s
  exact osc

theorem voiceSequence_glideLeft_le {s : State} (h : s.osc.glideLeft ≤ s.config.glideTicks) :
    (voiceSequence s).osc.glideLeft ≤ s.config.glideTicks := by
  unfold voiceSequence
  generalize seqAdvance s.config s.params.tempo s.seq = adv
  obtain ⟨q, _ | ⟨p, st⟩⟩ := adv
  · exact h
  · simp only [onStep, pushNotify_osc]
    split
    · rw [playStep_glideLeft]
      split
      · exact le_rfl
      · exact Nat.zero_le _
    · exact h

theorem voiceRender_glideLeft_le {s : State} (h : s.osc.glideLeft ≤ s.config.glideTicks) :
    (voiceRender s).1.osc.glideLeft ≤ s.config.glideTicks := by
  obtain ⟨-, -, -, -, -, osc, -⟩ := voiceRender_control s
  have bound : (advancePhase s.config (voiceSequence s).osc).glideLeft ≤ s.config.glideTicks :=
    voiceSequence_glideLeft_le h
  rw [osc]
  split
  · rw [oscUpdate_glideLeft]
    omega
  · exact bound

/-- A sample adds at most one whole notification, inside NOTIFY (R394). -/
theorem voiceSequence_notify_legal {s : State} (within : Memory.Within s.notify s.config.notifyCap)
    (whole : s.notifyLen % 5 = 0 ∧ s.notifyLen ≤ s.config.notifyCap) :
    Memory.Within (voiceSequence s).notify s.config.notifyCap ∧
    ((voiceSequence s).notifyLen % 5 = 0 ∧ (voiceSequence s).notifyLen ≤ s.config.notifyCap) ∧
    (voiceSequence s).notifyLen ≤ s.notifyLen + 5 := by
  obtain ⟨-, same⟩ | ⟨p, st, -, ⟨room, notify, len, -⟩ | ⟨-, notify, len, -⟩⟩ := voiceSequence_notify s
  · rw [same.notify, same.notifyLen]
    exact ⟨within, whole, by omega⟩
  · rw [notify, len]
    exact ⟨memWriteBytes_within _ _ _ within room, by omega, le_rfl⟩
  · rw [notify, len]
    exact ⟨within, whole, by omega⟩

/-- After sample `i` the next one of the block is due, or the call has returned (R147). -/
theorem nextStage_legal {c : EngineConfig binary32} {i cursor notifyLen : Nat} (hcursor : cursor = 0)
    (hlen : notifyLen ≤ 5 * (i + 1)) : (nextStage c i).Legal c cursor notifyLen := by
  unfold nextStage
  split
  · exact ⟨hcursor, ‹_›, hlen⟩
  · exact hcursor

/-- A position modulo a legal delay length is inside the delay RAM (R57). -/
theorem mod_delayLength_lt {c : EngineConfig binary32} {p : Params binary32} (h : p.Legal c) (n : Nat) :
    n % p.delayLength < delayCap c :=
  (Nat.mod_lt n h.delayLength.1).trans_le h.delayLength.2

/-- With room for a notification a sample, sample `i` of a block loses none (R432). -/
theorem voiceSequence_noOverflow {s : State} (h : s.Legal) {i : Nat} (render : s.stage = .render i)
    (room : 5 * s.config.blockLen ≤ s.config.notifyCap) : ∀ r ∈ (voiceSequence s).log, r.kind ≠ .notifyOverflow := by
  obtain ⟨-, hi, hlen⟩ := h.stage_render render
  rw [voiceSequence_log_of_room (by omega)]
  exact h.noOverflow room

theorem storeSample_voiceRender_legal {s : State} (h : s.Legal) {i : Nat} (render : s.stage = .render i) :
    (storeSample i (voiceRender s).2 (voiceRender s).1).Legal := by
  obtain ⟨cursor, hi, hlen⟩ := h.stage_render render
  obtain ⟨control, notify, -, seq, -, ⟨y, delayBuf⟩, delayPos⟩ := voiceRender_frame s
  obtain ⟨within, whole, atMost⟩ := voiceSequence_notify_legal h.notify h.notifyLen
  constructor <;>
    simp only [storeSample_config, storeSample_stage, storeSample_cursor, storeSample_params, storeSample_seq,
      storeSample_osc, storeSample_cmd, storeSample_outL, storeSample_outR, storeSample_notify, storeSample_notifyLen,
      storeSample_delayBuf, storeSample_delayPos, storeSample_log, control.config, control.cursor, control.params,
      control.cmd, control.outL, control.outR, notify.notify, notify.notifyLen, notify.log, seq, delayBuf, delayPos]
  case config => exact h.config
  case stage => exact nextStage_legal cursor (by omega)
  case cursor => exact h.cursor
  case params => exact h.params
  case seq => exact seqAdvance_legal s.config s.params.tempo h.seq
  case glideLeft => exact voiceRender_glideLeft_le h.glideLeft
  case cmd => exact h.cmd
  case outL => exact writeSample_within h.outL hi _
  case stereo => rw [h.stereo]
  case notify => exact within
  case delayBuf => exact memWrite_within h.delayBuf h.delayPos _
  case delayPos => exact mod_delayLength_lt h.params _
  case notifyLen => exact whole
  case noOverflow => exact voiceSequence_noOverflow h render

/-- Settles O17, by the kinds of step: each keeps the invariant, and none is taken from a legal state at
`constructing`, where no state is legal. -/
theorem stepsKeepTheStateLegal : Obligations.StepsKeepTheStateLegal := by
  intro s t legal h
  obtain ⟨constructing, -⟩ | ⟨-, -, rfl⟩ | ⟨-, c, rest, -, rfl⟩ | ⟨pos, i, rest, decoding, fetch, hexec⟩ |
    ⟨pos, e, decoding, -, rfl⟩ | ⟨i, render, rfl⟩ := step_cases h
  · have absurdity := legal.stage
    rw [constructing] at absurdity
    exact absurdity.elim
  · exact legal
  · exact hostMove_legal (legal.setHost rest) c
  · exact exec_legal (fetched_legal legal decoding fetch) hexec
  · exact endDecode_legal legal decoding
  · exact storeSample_voiceRender_legal legal render

end Sys2Proof.Machine
end

section
/-! PROOFS of the family 30_encoding.md: the decoder and the encoder are inverse (R110 to R115), the length of an
instruction (R114), and the packed operands of `SetStep` and `SetPatternLength` (R118, R119). -/

namespace Sys2Proof

/-! ## The opcode table -/

/-- The ranges that the model tests are the codes that R113 lists with format U or F (R114). -/
theorem arity_eq (c : U8) :
    arity c =
      if c.toNat ∈ [20, 21, 22, 23, 24, 25, 40, 41, 42, 43, 44, 45, 46, 47, 48, 49, 60] then 4 else 0 := by
  have listed : ((20 ≤ c.toNat ∧ c.toNat ≤ 25) ∨ (40 ≤ c.toNat ∧ c.toNat ≤ 49) ∨ c.toNat = 60) ↔
      c.toNat ∈ [20, 21, 22, 23, 24, 25, 40, 41, 42, 43, 44, 45, 46, 47, 48, 49, 60] := by
    simp only [List.mem_cons, List.not_mem_nil, or_false]
    omega
  simp only [arity, listed]

theorem arity_eq_zero_or_four (c : U8) : arity c = 0 ∨ arity c = 4 := by
  rw [arity_eq]
  split
  · exact .inr rfl
  · exact .inl rfl

/-- The codes that R113 does not list with an operand are `Nop`'s and the unassigned ones (R115). -/
theorem arity_eq_zero_iff (c : U8) :
    arity c = 0 ↔ c.toNat < 20 ∨ (26 ≤ c.toNat ∧ c.toNat ≤ 39) ∨ (50 ≤ c.toNat ∧ c.toNat ≤ 59) ∨ 61 ≤ c.toNat := by
  simp only [arity]
  split <;> omega

/-- The code of an instruction with an operand is assigned to that instruction, and its operand bytes follow (R113). -/
theorem code_of_operand {i : Instr} {u : U32} (h : i.operand = some u) :
    arity i.code = 4 ∧ assigned i.code u = some i := by
  cases i <;> cases h <;> exact ⟨rfl, rfl⟩

/-- A code with operand bytes is assigned (R113). -/
theorem exists_assigned {c : U8} (h : arity c ≠ 0) (u : U32) : ∃ i, assigned c u = some i := by
  simp only [assigned]
  split
  case h_18 =>
    have unlisted : arity c = 0 := by simp_all [arity_eq]
    exact absurd unlisted h
  all_goals exact ⟨_, rfl⟩

/-- The instruction that a code makes of a word has that code and that operand (R113). -/
theorem code_operand_of_assigned {c : U8} {u : U32} {i : Instr} (h : assigned c u = some i) :
    i.code = c ∧ i.operand = some u := by
  simp only [assigned] at h
  split at h
  case h_18 => cases h
  all_goals
    cases h
    exact ⟨BitVec.eq_of_toNat_eq (Eq.symm ‹_›), rfl⟩

/-! ## One decode step -/

theorem decode_of_arity_zero {c : U8} (h : arity c = 0) (tl : List U8) : decode (c :: tl) = .ok (.nop, tl) := by
  simp only [decode, h, if_true]

theorem decode_of_assigned {c : U8} {u : U32} {i : Instr} (h : arity c ≠ 0) (hi : assigned c u = some i)
    (rest : List U8) : decode (c :: (bytesOf32 u ++ rest)) = .ok (i, rest) := by
  simp only [bytesOf32, List.cons_append, List.nil_append, decode, if_neg h, Machine.le32_bytes, hi, Option.getD_some]

theorem decode_of_length_lt {c : U8} {tl : List U8} (h : tl.length < arity c) :
    decode (c :: tl) = .error (.truncated c) := by
  have operand : arity c ≠ 0 := by omega
  have short : tl.length < 4 := by have := arity_eq_zero_or_four c; omega
  simp only [decode, if_neg operand]
  split
  · simp only [List.length_cons] at short
    omega
  · rfl

/-- The first four bytes of a list are those of a word. -/
theorem exists_bytesOf32_append {tl : List U8} (h : 4 ≤ tl.length) :
    ∃ u, tl = bytesOf32 u ++ tl.drop 4 := by
  match tl, h with
  | b0 :: b1 :: b2 :: b3 :: rest, _ => exact ⟨le32 b0 b1 b2 b3, by rw [Machine.bytesOf32_le32]; rfl⟩

/-- With its operand bytes after it, a code of format U or F is read as the encoding that stands there (R114). -/
theorem exists_decode_eq_encode {c : U8} {tl : List U8} (operand : arity c ≠ 0) (whole : arity c ≤ tl.length) :
    ∃ i, decode (c :: tl) = .ok (i, tl.drop (arity c)) ∧ encode i ++ tl.drop (arity c) = c :: tl := by
  have four : arity c = 4 := (arity_eq_zero_or_four c).resolve_left operand
  rw [four] at whole ⊢
  obtain ⟨u, bytes⟩ := exists_bytesOf32_append whole
  obtain ⟨i, assigned⟩ := exists_assigned operand u
  obtain ⟨code, word⟩ := code_operand_of_assigned assigned
  refine ⟨i, ?_, ?_⟩
  · conv_lhs => rw [bytes]
    exact decode_of_assigned operand assigned _
  · simp only [encode, code, word, Option.elim_some, List.cons_append, ← bytes]

/-- Decoding the encoding of an instruction gives it back: the code's arity says which bytes are its operand
(R110, R114). -/
theorem decode_encode_append (i : Instr) (rest : List U8) : decode (encode i ++ rest) = .ok (i, rest) := by
  cases operand : i.operand with
  | none =>
    cases i <;> cases operand
    exact decode_of_arity_zero rfl rest
  | some u =>
    obtain ⟨four, assigned⟩ := code_of_operand operand
    have hasOperand : arity i.code ≠ 0 := by rw [four]; decide
    simpa only [encode, operand, Option.elim_some, List.cons_append] using decode_of_assigned hasOperand assigned rest

/-- What one decode step over at least one byte can do: read a `Nop` of one byte, read the encoding that stands
there, or find it truncated (R142, R144). -/
theorem decode_cons_cases (c : U8) (tl : List U8) :
    (arity c = 0 ∧ decode (c :: tl) = .ok (.nop, tl)) ∨
    (arity c ≠ 0 ∧ arity c ≤ tl.length ∧
      ∃ i, decode (c :: tl) = .ok (i, tl.drop (arity c)) ∧ encode i ++ tl.drop (arity c) = c :: tl) ∨
    (tl.length < arity c ∧ decode (c :: tl) = .error (.truncated c)) := by
  by_cases zero : arity c = 0
  · exact .inl ⟨zero, decode_of_arity_zero zero tl⟩
  · rcases Nat.lt_or_ge tl.length (arity c) with short | whole
    · exact .inr (.inr ⟨short, decode_of_length_lt short⟩)
    · exact .inr (.inl ⟨zero, whole, exists_decode_eq_encode zero whole⟩)

theorem decodeStream_of_arity_zero {c : U8} (h : arity c = 0) (tl : List U8) :
    decodeStream (c :: tl) = .nop :: decodeStream tl := by
  simp only [decodeStream, List.length_cons, decodeUpTo, decode_of_arity_zero h]

/-- Settles O1: `decode_encode_append`, by whether the instruction has an operand. -/
theorem decodeAfterEncodeGivesTheInstruction : Obligations.DecodeAfterEncodeGivesTheInstruction :=
  decode_encode_append

/-- Settles O2, by what a decode step over at least one byte can do. -/
theorem decodedBytesAreAnEncoding : Obligations.DecodedBytesAreAnEncoding := by
  intro bs i rest h
  cases bs with
  | nil => cases h
  | cons c tl =>
    obtain ⟨zero, e⟩ | ⟨-, -, j, e, bytes⟩ | ⟨-, e⟩ := decode_cons_cases c tl <;> cases e.symm.trans h
    · by_cases nop : c = 0
      · exact .inl (nop ▸ rfl)
      · exact .inr ⟨rfl, c, nop, zero, rfl⟩
    · exact .inl bytes

/-- Settles O3: an unassigned code has arity 0, and R115's reading of it follows from that. -/
theorem unassignedCodesAreOneByteNops : Obligations.UnassignedCodesAreOneByteNops := by
  intro c tl unassigned
  have zero : arity c = 0 := (arity_eq_zero_iff c).mpr (by omega)
  exact ⟨zero, decode_of_arity_zero zero tl, decodeStream_of_arity_zero zero tl, fun _ => rfl⟩

/-- Settles O4, by what a decode step over at least one byte can do. -/
theorem lengthFollowsFromTheOpcodeByte : Obligations.LengthFollowsFromTheOpcodeByte := by
  intro c tl
  refine ⟨arity_eq c, fun whole => ?_, decode_of_length_lt⟩
  obtain ⟨zero, e⟩ | ⟨-, -, i, e, -⟩ | ⟨short, -⟩ := decode_cons_cases c tl
  · exact ⟨.nop, by rw [e, zero, List.drop_zero]⟩
  · exact ⟨i, e⟩
  · omega

/-- Settles O5: the words are encodings, byte for byte, of the instructions that they stand for. -/
theorem wordsOfTheSpecDecode : Obligations.WordsOfTheSpecDecode :=
  ⟨decode_encode_append (.setCutoff 0x43DC0000#32) [], decode_encode_append (.setRunning 1#32) [],
    decode_encode_append (.setStep 0x0001152D#32) [], decode_encode_append (.setPatternLength 0x01000003#32) [],
    decode_encode_append (.setTempo 0x430C0000#32) [], decode_encode_append (.setDelayLength 4410#32) [],
    decode_encode_append (.stepChanged 5#32) [], decode_encode_append .nop []⟩

end Sys2Proof

namespace Sys2Proof.Machine

/-! ## The packed operands -/

/-- The operand that R118 makes of the fields of a `SetStep`; `rb` and `ra` are its reserved bits. -/
def packStep (pat : BitVec 8) (rb slot : BitVec 4) (ra : BitVec 3) (up down sl acc en : Bool)
    (pitch : BitVec 8) : U32 :=
  pat ++ rb ++ slot ++ ra ++ BitVec.ofBool up ++ BitVec.ofBool down ++ BitVec.ofBool sl ++ BitVec.ofBool acc ++
    BitVec.ofBool en ++ pitch

/-- The operand that R119 makes of the fields of a `SetPatternLength`; its middle bits are reserved. -/
def packLength (pat : BitVec 8) (reserved : BitVec 16) (len : BitVec 8) : U32 := pat ++ reserved ++ len

section
variable (pat : BitVec 8) (rb slot : BitVec 4) (ra : BitVec 3) (up down sl acc en : Bool) (pitch : BitVec 8)

@[simp] theorem patternField_packStep :
    patternField (packStep pat rb slot ra up down sl acc en pitch) = pat := by
  simp (disch := decide) only [patternField, packStep, BitVec.extractLsb'_append_eq_of_le, Nat.reduceSub,
    BitVec.extractLsb'_eq_self]

@[simp] theorem slotField_packStep :
    (slotField (packStep pat rb slot ra up down sl acc en pitch)).val = slot.toNat := by
  simp (disch := decide) only [slotField, packStep, BitVec.extractLsb'_append_eq_of_le, Nat.reduceSub]
  exact congrArg BitVec.toNat BitVec.extractLsb'_append_eq_right

@[simp] theorem stepField_packStep :
    stepField (packStep pat rb slot ra up down sl acc en pitch) = ⟨pitch, en, acc, sl, down, up⟩ := by
  rw [stepField, Step.mk.injEq]
  refine ⟨BitVec.extractLsb'_append_eq_right, ?_⟩
  simp only [packStep, BitVec.getLsbD_append, Nat.reduceLT, Nat.reduceSub, if_true, if_false, BitVec.getLsbD_ofBool,
    decide_true, Bool.true_and, and_self]

variable (reserved : BitVec 16) (len : BitVec 8)

@[simp] theorem patternField_packLength : patternField (packLength pat reserved len) = pat := by
  simp (disch := decide) only [patternField, packLength, BitVec.extractLsb'_append_eq_of_le, Nat.reduceSub,
    BitVec.extractLsb'_eq_self]

@[simp] theorem lengthField_packLength : lengthField (packLength pat reserved len) = len :=
  BitVec.extractLsb'_append_eq_right

end

/-! ## The instructions that write the bank -/

theorem badPatternIndex_eq_true {c : EngineConfig binary32} {p : Nat} :
    badPatternIndex c p = true ↔ c.numPatterns ≤ p := by
  simp only [badPatternIndex, decide_eq_true_eq]

theorem badPatternLength_eq_true {c : EngineConfig binary32} {p len : Nat} :
    badPatternLength c p len = true ↔ c.numPatterns ≤ p ∨ len = 0 ∨ 16 < len := by
  simp only [badPatternLength, Bool.or_eq_true, decide_eq_true_eq, badPatternIndex_eq_true, or_assoc]

theorem exec_setStep_of_index {u : U32} {s : State} (h : (patternField u).toNat < s.config.numPatterns) :
    exec (.setStep u) s = .next (updateSeq (setStepSlot (patternField u).toNat (slotField u) (stepField u)) s) :=
  if_neg (mt badPatternIndex_eq_true.mp (Nat.not_le.mpr h))

theorem exec_setStep_of_badIndex {u : U32} {s : State} (h : s.config.numPatterns ≤ (patternField u).toNat) :
    exec (.setStep u) s = .next (logSkip .badPatternIndex u s) :=
  if_pos (badPatternIndex_eq_true.mpr h)

theorem exec_setPatternLength_of_good {u : U32} {s : State} (index : (patternField u).toNat < s.config.numPatterns)
    (positive : 1 ≤ (lengthField u).toNat) (short : (lengthField u).toNat ≤ 16) :
    exec (.setPatternLength u) s = .next
      (updateSeq (setLength (patternField u).toNat ⟨(lengthField u).toNat, Nat.lt_succ_of_le short⟩) s) :=
  dif_neg (mt badPatternLength_eq_true.mp (by omega))

theorem exec_setPatternLength_of_bad {u : U32} {s : State}
    (h : s.config.numPatterns ≤ (patternField u).toNat ∨ (lengthField u).toNat = 0 ∨ 16 < (lengthField u).toNat) :
    exec (.setPatternLength u) s = .next (logSkip .badPatternLength u s) :=
  dif_pos (badPatternLength_eq_true.mpr h)

/-- A step slot written: every length is kept (R182). -/
theorem patternAt_setStepSlot_length {q : Sequencer} {p : Nat} (h : p < q.patterns.length) (i : Fin Config.maxSteps)
    (st : Step) (p' : Nat) : (patternAt (setStepSlot p i st q) p').length = (patternAt q p').length := by
  rw [patternAt_setStepSlot h]
  split
  · subst p'
    rfl
  · rfl

/-- A step slot written: that one slot holds the step, and every other is kept (R182). -/
theorem patternAt_setStepSlot_steps {q : Sequencer} {p : Nat} (h : p < q.patterns.length) (i : Fin Config.maxSteps)
    (st : Step) (p' : Nat) (i' : Fin Config.maxSteps) :
    (patternAt (setStepSlot p i st q) p').steps[i'] =
      if p' = p ∧ i'.val = i.val then st else (patternAt q p').steps[i'] := by
  rw [patternAt_setStepSlot h]
  by_cases pattern : p' = p
  · subst p'
    simp [Vector.getElem_set, eq_comm]
  · simp [pattern]

/-- A length set: every step is kept, and every other length (R183). -/
theorem patternAt_setLength_frame {q : Sequencer} {p : Nat} (h : p < q.patterns.length) (n : Fin (Config.maxSteps + 1))
    (p' : Nat) :
    (patternAt (setLength p n q) p').steps = (patternAt q p').steps ∧
    (patternAt (setLength p n q) p').length.val = if p' = p then n.val else (patternAt q p').length.val := by
  rw [patternAt_setLength h]
  by_cases pattern : p' = p
  · subst p'
    simp
  · simp [pattern]

/-- Settles O23: the fields of the packed operand, then what `exec` does by the pattern index. -/
theorem setStepReplacesOneSlot : Obligations.SetStepReplacesOneSlot := by
  intro pat rb slot ra up down sl acc en pitch s u
  have pattern : patternField u = pat := patternField_packStep ..
  have slotValue : (slotField u).val = slot.toNat := slotField_packStep ..
  have fields : stepField u = ⟨pitch, en, acc, sl, down, up⟩ := stepField_packStep ..
  clear_value u
  rw [← pattern, ← slotValue, ← fields]
  refine ⟨fun index bank => ?_, exec_setStep_of_badIndex⟩
  have inBank : (patternField u).toNat < s.seq.patterns.length := bank ▸ index
  exact ⟨_, exec_setStep_of_index index, List.length_set, fun p =>
    ⟨patternAt_setStepSlot_length inBank _ _ p, patternAt_setStepSlot_steps inBank _ _ p⟩⟩

/-- Settles O24: the fields of the packed operand, then what `exec` does by its pattern index and length. -/
theorem setPatternLengthSetsOneLength : Obligations.SetPatternLengthSetsOneLength := by
  intro pat reserved len s u
  have pattern : patternField u = pat := patternField_packLength ..
  have newLength : lengthField u = len := lengthField_packLength ..
  clear_value u
  rw [← pattern, ← newLength]
  refine ⟨fun index bank positive short => ?_, exec_setPatternLength_of_bad⟩
  have inBank : (patternField u).toNat < s.seq.patterns.length := bank ▸ index
  exact ⟨_, exec_setPatternLength_of_good index positive short, List.length_set, patternAt_setLength_frame inBank _⟩

end Sys2Proof.Machine
end

section
/-! PROOFS of the family 40_decoder.md: how a stream decodes (R142, R144), and what the steps of one `process` call
add up to (R140, R143, R145, R146). -/

namespace Sys2Proof

/-! ## The bytes of an instruction -/

theorem length_encode (i : Instr) : (encode i).length = i.size := by
  unfold encode Instr.size
  cases i.operand <;> rfl

/-- A decoded instruction stands on as many bytes as its size says, before the rest (R121, R142). -/
theorem exists_append_of_decode {bs rest : List U8} {i : Instr} (h : decode bs = .ok (i, rest)) :
    ∃ taken : List U8, taken.length = i.size ∧ bs = taken ++ rest := by
  obtain bytes | ⟨rfl, c, -, -, rfl⟩ := decodedBytesAreAnEncoding bs i rest h
  · exact ⟨encode i, length_encode i, bytes.symm⟩
  · exact ⟨[c], rfl, rfl⟩

theorem length_eq_size_add_of_decode {bs rest : List U8} {i : Instr} (h : decode bs = .ok (i, rest)) :
    bs.length = i.size + rest.length := by
  obtain ⟨taken, size, rfl⟩ := exists_append_of_decode h
  rw [List.length_append, size]

theorem drop_size_of_decode {bs rest : List U8} {i : Instr} (h : decode bs = .ok (i, rest)) :
    bs.drop i.size = rest := by
  obtain ⟨taken, size, rfl⟩ := exists_append_of_decode h
  exact List.drop_left' size

/-- Every decoded instruction consumes at least its opcode byte (R145). -/
theorem length_lt_of_decode {bs rest : List U8} {i : Instr} (h : decode bs = .ok (i, rest)) :
    rest.length < bs.length := by
  have opcode : 1 ≤ i.size := by rw [← length_encode]; exact Nat.succ_pos _
  have := length_eq_size_add_of_decode h
  omega

/-! ## A stream -/

theorem decodeUpTo_of_decode_ok {bs rest : List U8} {i : Instr} (h : decode bs = .ok (i, rest)) (n : Nat) :
    decodeUpTo (n + 1) bs = i :: decodeUpTo n rest := by
  simp only [decodeUpTo, h]

theorem decodeUpTo_of_decode_error {bs : List U8} {e : DecodeStop} (h : decode bs = .error e) (n : Nat) :
    decodeUpTo n bs = [] := by
  cases n with
  | zero => rfl
  | succ n => simp only [decodeUpTo, h]

/-- Fuel for as many instructions as there are bytes is enough: more of it decodes nothing else (R145). -/
theorem decodeUpTo_succ_of_length_le {n : Nat} {bs : List U8} (enough : bs.length ≤ n) :
    decodeUpTo (n + 1) bs = decodeUpTo n bs := by
  induction n generalizing bs with
  | zero => rw [List.length_eq_zero_iff.mp (Nat.le_zero.mp enough)]; rfl
  | succ n ih =>
    cases next : decode bs with
    | error e => rw [decodeUpTo_of_decode_error next, decodeUpTo_of_decode_error next]
    | ok r =>
      have shorter := length_lt_of_decode next
      rw [decodeUpTo_of_decode_ok next, decodeUpTo_of_decode_ok next, ih (by omega)]

theorem decodeUpTo_eq_decodeStream {n : Nat} {bs : List U8} (enough : bs.length ≤ n) :
    decodeUpTo n bs = decodeStream bs := by
  induction n, enough using Nat.le_induction with
  | base => rfl
  | succ n enough ih => rw [decodeUpTo_succ_of_length_le enough, ih]

theorem decodeStream_of_decode_ok {bs rest : List U8} {i : Instr} (h : decode bs = .ok (i, rest)) :
    decodeStream bs = i :: decodeStream rest := by
  have shorter := length_lt_of_decode h
  obtain ⟨n, length⟩ := Nat.exists_eq_succ_of_ne_zero (Nat.ne_zero_of_lt shorter)
  rw [decodeStream, length, decodeUpTo_of_decode_ok h, decodeUpTo_eq_decodeStream (by omega)]

theorem decodeStream_of_decode_error {bs : List U8} {e : DecodeStop} (h : decode bs = .error e) :
    decodeStream bs = [] :=
  decodeUpTo_of_decode_error h bs.length

theorem length_decodeUpTo_le (n : Nat) (bs : List U8) : (decodeUpTo n bs).length ≤ n := by
  induction n generalizing bs with
  | zero => exact le_rfl
  | succ n ih =>
    cases next : decode bs with
    | error e => rw [decodeUpTo_of_decode_error next]; exact Nat.zero_le _
    | ok r => rw [decodeUpTo_of_decode_ok next]; exact Nat.succ_le_succ (ih r.2)

/-- A stream has no more instructions than bytes (R145). -/
theorem length_decodeStream_le (bs : List U8) : (decodeStream bs).length ≤ bs.length :=
  length_decodeUpTo_le bs.length bs

/-- Whole instructions in front of a stream decode to themselves, and the stream after them as it would alone (R142). -/
theorem decodeStream_flatMap_encode_append (is : List Instr) (bs : List U8) :
    decodeStream (is.flatMap encode ++ bs) = is ++ decodeStream bs := by
  induction is with
  | nil => rfl
  | cons i is ih =>
    rw [List.flatMap_cons, List.append_assoc, decodeStream_of_decode_ok (decode_encode_append i _), ih, List.cons_append]

/-- Settles O6: whole instructions decode to themselves, and neither nothing nor a truncated one adds to them. -/
theorem truncatedTailIsDropped : Obligations.TruncatedTailIsDropped := by
  intro is c tl
  have whole (bs : List U8) (nothing : decodeStream bs = []) : decodeStream (is.flatMap encode ++ bs) = is := by
    rw [decodeStream_flatMap_encode_append, nothing, List.append_nil]
  refine ⟨?_, fun truncated => whole (c :: tl) (decodeStream_of_decode_error (decode_of_length_lt truncated))⟩
  simpa only [List.append_nil] using whole [] rfl

end Sys2Proof

namespace Sys2Proof.Machine

/-! ## The decode phase -/

@[simp] theorem length_bytesBeforeCursor (s : State) (pos : Nat) :
    (bytesBeforeCursor s pos).length = s.cursor - pos := by
  simp only [bytesBeforeCursor, memReadBytes, List.length_map, List.length_range]

/-- What may be read from a later position is what is left after the bytes up to it (R142). -/
theorem bytesBeforeCursor_add (s : State) (pos k : Nat) :
    bytesBeforeCursor s (pos + k) = (bytesBeforeCursor s pos).drop k := by
  apply List.ext_getElem
  · simp only [length_bytesBeforeCursor, List.length_drop]
    omega
  · intro n _ _
    simp only [bytesBeforeCursor, memReadBytes, List.getElem_drop, List.getElem_map, List.getElem_range, Nat.add_assoc]

/-- The fetch window shows the same instruction as the whole stream, and the step applies it (R142). -/
theorem step_of_decode_ok {s : State} {pos : Nat} {i : Instr} {rest : List U8} (decoding : s.stage = .decode pos)
    (h : decode (bytesBeforeCursor s pos) = .ok (i, rest)) :
    step s = exec i { s with stage := .decode (pos + i.size) } := by
  obtain ⟨_, window⟩ := decode_take_five h
  rw [← fetchWindow_eq_take] at window
  simp only [step_decode decoding, stepDecode, window]

/-- Settles O7: the step's instruction, and the bytes it stands on. -/
theorem stepRunsTheDecodedInstruction : Obligations.StepRunsTheDecodedInstruction :=
  fun _ _ _ _ decoding h => ⟨step_of_decode_ok decoding h, length_eq_size_add_of_decode h⟩

/-- No instruction reads where inside the call the engine is: with another stage it does the same (R151).
Its condition, where it has one, is the same at both states. -/
theorem exec_withStage {i : Instr} {s t : State} (h : exec i s = .next t) (stage : Stage) :
    exec i { s with stage := stage } = .next { t with stage := stage } := by
  revert h
  cases i
  case setRunning =>
    simp only [exec, execSetRunning]
    split
    · rintro ⟨⟩; rfl
    · split <;> (rintro ⟨⟩; rfl)
  case setWaveform | setStep | setPatternLength | setNextPattern | setCutoff | setResonance | setEnvMod =>
    simp only [exec, execSetWaveform, execSetStep, execSetPatternLength, execSetNextPattern, execSetCutoff,
      execSetResonance, execSetEnvMod]
    split <;> (rintro ⟨⟩; rfl)
  all_goals rintro ⟨⟩; rfl

theorem applyAll_withStage {is : List Instr} {s t : State} (h : applyAll exec is s = .next t) (stage : Stage) :
    applyAll exec is { s with stage := stage } = .next { t with stage := stage } := by
  induction is generalizing s with
  | nil => cases h; rfl
  | cons i is ih =>
    obtain ⟨u, apply, -⟩ := exec_shape i s
    simp only [applyAll, apply, exec_withStage apply] at h ⊢
    exact ih h

/-- Applying instructions keeps the implementation parameters and the host's calls that are still to come. -/
theorem applyAll_frame {is : List Instr} {s t : State} (h : applyAll exec is s = .next t) :
    t.config = s.config ∧ t.host = s.host := by
  induction is generalizing s with
  | nil => cases h; exact ⟨rfl, rfl⟩
  | cons i is ih =>
    obtain ⟨u, apply, -⟩ := exec_shape i s
    simp only [applyAll, apply] at h
    have frame := exec_sameOutsideRegisters apply
    exact ⟨(ih h).1.trans frame.config, (ih h).2.trans frame.host⟩

/-- The steps of a decode phase apply the decoded instructions in stream order, one a step, and one step more ends
the phase (R142, R143, R144). -/
theorem decodePhase_run {is : List Instr} {s : State} {pos : Nat} (decoding : s.stage = .decode pos)
    (stream : decodeStream (bytesBeforeCursor s pos) = is) :
    ∃ t, applyAll exec is s = .next t ∧ Sys2Proof.core.run (is.length + 1) s = .next (endDecode t) := by
  induction is generalizing s pos with
  | nil =>
    cases next : decode (bytesBeforeCursor s pos) with
    | ok r => cases (decodeStream_of_decode_ok next).symm.trans stream
    | error e => exact ⟨s, rfl, run_succ 0 (decodePhaseEndsWithoutError s pos e decoding next)⟩
  | cons i is ih =>
    cases next : decode (bytesBeforeCursor s pos) with
    | error e => cases (decodeStream_of_decode_error next).symm.trans stream
    | ok r =>
      obtain ⟨rfl, later⟩ := List.cons.inj ((decodeStream_of_decode_ok next).symm.trans stream)
      obtain ⟨u, apply, -⟩ := exec_shape r.1 { s with stage := .decode (pos + r.1.size) }
      have frame := exec_sameOutsideRegisters apply
      have left : bytesBeforeCursor u (pos + r.1.size) = r.2 := by
        rw [← drop_size_of_decode next, ← bytesBeforeCursor_add]
        simp only [bytesBeforeCursor, frame.cmd, frame.cursor]
      obtain ⟨t, rest, run⟩ := ih frame.stage (left ▸ later)
      refine ⟨{ t with stage := s.stage }, ?_, ?_⟩
      · have applied : exec r.1 s = .next { u with stage := s.stage } := exec_withStage apply s.stage
        simp only [applyAll, applied, applyAll_withStage rest]
      · exact (run_succ _ ((step_of_decode_ok decoding next).trans apply)).trans run

/-! ## The block -/

/-- The first `n` samples of a block (R147). -/
def renderSamples (n : Nat) (s : State) : State := (List.range n).foldl (fun t i => renderSample i t) s

theorem renderSamples_succ (n : Nat) (s : State) : renderSamples (n + 1) s = renderSample n (renderSamples n s) := by
  simp only [renderSamples, List.range_succ, List.foldl_append, List.foldl_cons, List.foldl_nil]

theorem renderBlock_eq_renderSamples (s : State) : renderBlock s = renderSamples s.config.blockLen s := rfl

theorem renderSample_frame (i : Nat) (s : State) :
    (renderSample i s).config = s.config ∧ (renderSample i s).cursor = s.cursor ∧ (renderSample i s).host = s.host := by
  have control := (voiceRender_frame s).1
  exact ⟨control.config, control.cursor, control.host⟩

theorem renderSamples_frame (n : Nat) (s : State) :
    (renderSamples n s).config = s.config ∧ (renderSamples n s).cursor = s.cursor ∧
    (renderSamples n s).host = s.host := by
  induction n with
  | zero => exact ⟨rfl, rfl, rfl⟩
  | succ n ih =>
    obtain ⟨config, cursor, host⟩ := renderSample_frame n (renderSamples n s)
    rw [renderSamples_succ, config, cursor, host]
    exact ih

/-- After sample `i` the next one of the block is due, or the call has returned (R147). -/
theorem renderSample_stage (i : Nat) (s : State) : (renderSample i s).stage = nextStage s.config i := by
  rw [renderSample, storeSample_stage, voiceRender_config]

/-- The last sample of a block returns the cursor (R140, R146). -/
theorem renderSample_returned_of_last {i : Nat} {s : State} (last : s.config.blockLen ≤ i + 1) :
    (renderSample i s).returned = some (BitVec.ofNat 32 s.cursor) := by
  have control := (voiceRender_frame s).1
  rw [renderSample, storeSample_returned, returnedAfter, control.config, control.cursor, if_neg (by omega)]

/-- The steps of a block render its samples in increasing index, one a step (R147). -/
theorem renderSamples_run {s : State} (start : s.stage = .render 0) {n : Nat} (inBlock : n < s.config.blockLen) :
    Sys2Proof.core.run n s = .next (renderSamples n s) ∧ (renderSamples n s).stage = .render n := by
  induction n with
  | zero => exact ⟨rfl, start⟩
  | succ n ih =>
    obtain ⟨run, stage⟩ := ih (by omega)
    rw [renderSamples_succ]
    refine ⟨(run_add n 1 run).trans (run_succ 0 (step_render stage)), ?_⟩
    rw [renderSample_stage, (renderSamples_frame n s).1, nextStage, if_pos inBlock]

/-- As many steps as a block has samples render it, and the call has then returned the cursor (R140, R146, R147). -/
theorem renderBlock_run {s : State} (start : s.stage = .render 0) (nonempty : 1 ≤ s.config.blockLen) :
    Sys2Proof.core.run s.config.blockLen s = .next (renderBlock s) ∧ (renderBlock s).stage = .idle ∧
    (renderBlock s).returned = some (BitVec.ofNat 32 s.cursor) := by
  obtain ⟨n, len⟩ := Nat.exists_eq_add_of_le' nonempty
  obtain ⟨run, stage⟩ := renderSamples_run start (n := n) (by omega)
  obtain ⟨config, cursor, -⟩ := renderSamples_frame n s
  rw [renderBlock_eq_renderSamples, len, renderSamples_succ]
  refine ⟨(run_add n 1 run).trans (run_succ 0 (step_render stage)), ?_, ?_⟩
  · rw [renderSample_stage, nextStage, config, if_neg (by omega)]
  · rw [renderSample_returned_of_last (by rw [config, len]), cursor]

/-! ## The call -/

/-- The first step of a call (R140). -/
theorem step_process {s : State} {v : U32} {rest : List HostCall} (idle : s.stage = .idle)
    (call : s.host = .process v :: rest) : step s = .next (beginProcess v { s with host := rest }) := by
  simp only [step_idle idle, stepIdle, call, hostMove]

/-- Settles O11: the first step is `beginProcess`, which writes nothing else. -/
theorem processStartsAtOffsetZero : Obligations.ProcessStartsAtOffsetZero :=
  fun _ _ _ idle call => ⟨_, step_process idle call, rfl, rfl, rfl, rfl⟩

/-- Settles O9: one step starts the call, then the decode phase and the block take their steps. -/
theorem stepsOfACallAddUpToProcess : Obligations.StepsOfACallAddUpToProcess := by
  intro s v rest idle call nonempty
  set s0 := beginProcess v { s with host := rest } with hs0
  obtain ⟨t, applied, decoded⟩ := decodePhase_run (s := s0) rfl rfl
  obtain ⟨config, host⟩ := applyAll_frame applied
  have blockLen : (endDecode t).config.blockLen = s.config.blockLen := congrArg EngineConfig.blockLen config
  obtain ⟨rendered, stage, returned⟩ := renderBlock_run (s := endDecode t) rfl (blockLen ▸ nonempty)
  obtain ⟨-, cursor, sameHost⟩ := renderSamples_frame (endDecode t).config.blockLen (endDecode t)
  have instructions : (decodeStream (bytesBeforeCursor s0 0)).length ≤ s.config.cmdCap := by
    refine (length_decodeStream_le _).trans ?_
    rw [length_bytesBeforeCursor]
    exact (Nat.sub_le ..).trans (Nat.min_le_right ..)
  refine ⟨(decodeStream (bytesBeforeCursor s0 0)).length + 1 + s.config.blockLen + 1, renderBlock (endDecode t),
    by omega, ?_, ?_, stage, sameHost.trans host, returned, cursor⟩
  · rw [run_succ _ (step_process idle call), run_add _ _ decoded, ← blockLen]
    exact rendered
  · simp only [process, processWith, ← hs0, applied]

/-! ## The instructions of this family -/

/-- Settles O19: both instructions answer the state they are given (R148, R149). -/
theorem nopAndStepChangedChangeNothing : Obligations.NopAndStepChangedChangeNothing :=
  fun _ _ => ⟨rfl, rfl⟩

end Sys2Proof.Machine
end

section
/-! PROOFS of the family 41_sequencer.md: the controls of the sequencer and of the waveform (R180, R181, R184, R230),
what one advance does (R170 to R176), the period of a pattern (R177), and which steps of the engine write the current
pattern and the step length (R174, R175). -/

namespace Sys2Proof.Machine

/-! ## The rule's step length -/

theorem ite_zero_one_eq_ofNat_max (n : U32) : (if n = 0#32 then 1#32 else n) = BitVec.ofNat 32 (max 1 n.toNat) := by
  split
  · subst n
    rfl
  · rename_i positive
    rw [Nat.max_eq_right (by bv_omega), BitVec.ofNat_toNat, BitVec.setWidth_eq]

/-- The model's step length is R171's expression. -/
theorem stepLengthOf_eq_stepLength (c : EngineConfig binary32) (tempo : F32) :
    stepLengthOf c tempo = Claims.stepLength c tempo :=
  ite_zero_one_eq_ofNat_max _

/-! ## What the controls do -/

theorem exec_setRunning_zero (s : State) :
    exec (.setRunning 0#32) s = .next (updateSeq (fun q => { q with running := false }) s) := rfl

theorem exec_setRunning_of_running {u : U32} {s : State} (nonzero : u ≠ 0#32) (running : s.seq.running = true) :
    exec (.setRunning u) s = .next s :=
  (if_neg nonzero).trans (if_pos running)

theorem exec_setRunning_of_stopped {u : U32} {s : State} (nonzero : u ≠ 0#32) (stopped : s.seq.running = false) :
    exec (.setRunning u) s = .next (updateSeq (seqStart s.config s.params.tempo) s) :=
  (if_neg nonzero).trans (if_neg (by simp [stopped]))

theorem exec_setNextPattern_of_index {u : U32} {s : State} (h : u.toNat < s.config.numPatterns) :
    exec (.setNextPattern u) s = .next (updateSeq (fun q => { q with nextPattern := u.toNat }) s) :=
  if_neg (mt badPatternIndex_eq_true.mp (Nat.not_le.mpr h))

theorem exec_setNextPattern_of_badIndex {u : U32} {s : State} (h : s.config.numPatterns ≤ u.toNat) :
    exec (.setNextPattern u) s = .next (logSkip .badPatternIndex u s) :=
  if_pos (badPatternIndex_eq_true.mpr h)

theorem badWaveform_eq_true {u : U32} : badWaveform u = true ↔ 2 ≤ u.toNat := by
  simp only [badWaveform, decide_eq_true_eq]

theorem exec_setWaveform_of_index {u : U32} (s : State) (h : u.toNat < Config.numWaves) :
    exec (.setWaveform u) s = .next (updateParams (fun p => { p with waveform := ⟨u.toNat, h⟩ }) s) :=
  dif_neg (mt badWaveform_eq_true.mp (Nat.not_le.mpr h))

theorem exec_setWaveform_of_badIndex {u : U32} (s : State) (h : 2 ≤ u.toNat) :
    exec (.setWaveform u) s = .next (logSkip .badWaveform u s) :=
  dif_pos (badWaveform_eq_true.mpr h)

/-- An ignored operand of SetTempo leaves the register (R181). -/
theorem sanitiseTempo_of_bad {old v : F32} (h : finite v = false ∨ fle v fzero = true) : sanitiseTempo old v = old :=
  if_pos (by simpa [badTempo] using h)

/-- An accepted operand of SetTempo is stored up to 1.0e6 (R181). -/
theorem sanitiseTempo_of_good {old v : F32} (hv : finite v = true) (positive : flt fzero v = true) :
    sanitiseTempo old v = if fle v (fnat 1000000) then v else fnat 1000000 := by
  have good : badTempo v = false := badTempo_eq_false.mpr ⟨hv, positive⟩
  obtain ⟨-, -, -, finiteBound, -⟩ := range_ends
  have number : isNaN v = false := not_isNaN_of_finite hv
  have bound : isNaN (fnat 1000000 : F32) = false := not_isNaN_of_finite finiteBound
  rw [sanitiseTempo, good, if_neg Bool.false_ne_true, convert_self, fmin_eq number bound]
  simp only [fle_iff, number, bound, true_and]
  by_cases le : orderKey v ≤ orderKey (fnat 1000000 : F32)
  · rw [if_pos le, if_neg (not_lt_of_ge le)]
  · rw [if_neg le, if_pos (lt_of_not_ge le)]

/-! ## What one advance does -/

/-- Settles O35: the first case of an advance. -/
theorem stoppedSequencerEmitsNothing : Obligations.StoppedSequencerEmitsNothing :=
  fun _ _ _ stopped => if_neg (by simp [stopped])

theorem seqAdvance_of_count (c : EngineConfig binary32) (tempo : F32) {q : Sequencer} (running : q.running = true)
    (inside : q.counter.toNat + 1 < q.stepLength.toNat) :
    seqAdvance c tempo q = ({ q with counter := q.counter + 1#32 }, none) :=
  (if_pos running).trans (if_pos inside)

theorem seqAdvance_of_boundary (c : EngineConfig binary32) (tempo : F32) {q : Sequencer} (running : q.running = true)
    (boundary : q.stepLength.toNat ≤ q.counter.toNat + 1) :
    seqAdvance c tempo q =
      (seqBoundary c tempo q, some ((seqBoundary c tempo q).position, activeStep (seqBoundary c tempo q))) :=
  (if_pos running).trans (if_neg (Nat.not_lt.mpr boundary))

/-- A boundary inside the active pattern moves to the next position (R170). -/
theorem seqBoundary_of_inside (c : EngineConfig binary32) (tempo : F32) {q : Sequencer} {p : Fin Config.maxSteps}
    (next : p.val = q.position.val + 1) (inside : p.val < (activePattern q).length.val) :
    seqBoundary c tempo q = { q with counter := 0#32, stepLength := stepLengthOf c tempo, position := p } :=
  seqMove_inside (q := { q with counter := 0#32, stepLength := stepLengthOf c tempo }) next inside

/-- A boundary at the active pattern's end moves to position 0 of the queued one (R174). -/
theorem seqBoundary_of_end (c : EngineConfig binary32) (tempo : F32) {q : Sequencer}
    (atEnd : (activePattern q).length.val ≤ q.position.val + 1) :
    seqBoundary c tempo q = { q with
      counter := 0#32
      stepLength := stepLengthOf c tempo
      position := ⟨0, by decide⟩
      currentPattern := q.nextPattern } :=
  seqMove_wrap (q := { q with counter := 0#32, stepLength := stepLengthOf c tempo }) atEnd

theorem getElem?_eq_patternAt {q : Sequencer} {p : Nat} (h : p < q.patterns.length) :
    q.patterns[p]? = some (patternAt q p) := by
  rw [patternAt, List.getD_eq_getElem _ _ h, List.getElem?_eq_getElem h]

theorem Pattern.length_le (p : Pattern) : p.length.val ≤ 16 :=
  Nat.le_of_lt_succ p.length.isLt

/-- Settles O37, by whether the counter stays inside the step, and at a boundary whether the position stays inside the
pattern. -/
theorem emittedStepLiesInsideItsPattern : Obligations.EmittedStepLiesInsideItsPattern := by
  intro c tempo q legal running
  refine ⟨seqAdvance_of_count c tempo running, fun boundary => ?_⟩
  have positive := one_le_stepLengthOf c tempo
  have current := getElem?_eq_patternAt (legal.bank ▸ legal.currentPattern)
  have queued : q.nextPattern < q.patterns.length := legal.bank ▸ legal.nextPattern
  rw [seqAdvance_of_boundary c tempo running boundary, ← stepLengthOf_eq_stepLength]
  by_cases inside : q.position.val + 1 < (activePattern q).length.val
  · have fits : q.position.val + 1 < Config.maxSteps := inside.trans_le (Pattern.length_le _)
    refine ⟨activePattern q, activePattern q, ⟨q.position.val + 1, fits⟩, ?_⟩
    simp only [if_pos inside]
    rw [seqBoundary_of_inside (p := ⟨q.position.val + 1, fits⟩) c tempo rfl inside]
    exact ⟨current, current, trivial, rfl, inside, Pattern.length_le _, positive⟩
  · refine ⟨activePattern q, patternAt q q.nextPattern, ⟨0, by decide⟩, ?_⟩
    simp only [if_neg inside]
    rw [seqBoundary_of_end c tempo (Nat.not_lt.mp inside)]
    exact ⟨current, getElem?_eq_patternAt queued, trivial, rfl, legal.length _ (patternAt_mem queued),
      Pattern.length_le _, positive⟩

/-- An advance changes the current pattern only at a boundary where the position reaches the pattern's length (R174). -/
theorem wrap_of_seqAdvance_currentPattern_ne {c : EngineConfig binary32} {tempo : F32} {q : Sequencer}
    (changed : (seqAdvance c tempo q).1.currentPattern ≠ q.currentPattern) :
    q.running = true ∧ q.stepLength.toNat ≤ q.counter.toNat + 1 ∧
    (activePattern q).length.val ≤ q.position.val + 1 ∧
    (seqAdvance c tempo q).1.currentPattern = q.nextPattern ∧ (seqAdvance c tempo q).1.position.val = 0 := by
  obtain ⟨-, e⟩ | ⟨-, -, e⟩ | ⟨running, boundary, e⟩ := seqAdvance_cases c tempo q <;> rw [e] at changed ⊢
  · exact absurd rfl changed
  · exact absurd rfl changed
  · obtain ⟨-, -, same⟩ | ⟨atEnd, position, current⟩ := seqBoundary_cases c tempo q
    · exact absurd same changed
    · exact ⟨running, boundary, atEnd, current, position⟩

/-- An advance changes the step length only at a boundary, to the tempo's (R175). -/
theorem boundary_of_seqAdvance_stepLength_ne {c : EngineConfig binary32} {tempo : F32} {q : Sequencer}
    (changed : (seqAdvance c tempo q).1.stepLength ≠ q.stepLength) :
    q.running = true ∧ q.stepLength.toNat ≤ q.counter.toNat + 1 ∧
    (seqAdvance c tempo q).1.stepLength = stepLengthOf c tempo := by
  obtain ⟨-, e⟩ | ⟨-, -, e⟩ | ⟨running, boundary, e⟩ := seqAdvance_cases c tempo q <;> rw [e] at changed ⊢
  · exact absurd rfl changed
  · exact absurd rfl changed
  · obtain ⟨-, -, stepLength, -⟩ := seqBoundary_frame c tempo q
    exact ⟨running, boundary, stepLength⟩

/-! ## The period of a pattern (R177) -/

/-- A run of `n` advances after one of `m`, with the events of both. -/
theorem seqRun_add {c : EngineConfig binary32} {tempo : F32} {m n : Nat} {q q' q'' : Sequencer}
    {events events' : List (Fin Config.maxSteps × Step)} (first : seqRun c tempo m q = (q', events))
    (second : seqRun c tempo n q' = (q'', events')) : seqRun c tempo (m + n) q = (q'', events ++ events') := by
  simp only [seqRun_append, first, second]

/-- A whole step of the tempo's length from a restarted counter is one move, with its event. -/
theorem seqRun_stepLength (c : EngineConfig binary32) (tempo : F32) {q q' : Sequencer} (running : q.running = true)
    (restarted : q.counter = 0#32) (length : q.stepLength = stepLengthOf c tempo) (move : seqMove q = q') :
    seqRun c tempo (stepLengthOf c tempo).toNat q = (q', [(q'.position, activeStep q')]) := by
  obtain ⟨k, run⟩ := seqRun_whole_step c tempo running restarted (length ▸ one_le_stepLengthOf c tempo)
  have boundary : seqBoundary c tempo { q with counter := k } = q' := by
    rw [seqBoundary, ← length, ← restarted]
    exact move
  rw [← length, run, boundary]

/-- Inside a pattern, `n` whole steps move the position by `n` and emit `n` steps. -/
theorem seqRun_whole_steps (c : EngineConfig binary32) (tempo : F32) {q : Sequencer} (running : q.running = true)
    (restarted : q.counter = 0#32) (length : q.stepLength = stepLengthOf c tempo) (n : Nat) {p : Fin Config.maxSteps}
    (reached : p.val = q.position.val + n) (inside : p.val < (activePattern q).length.val) :
    ∃ events, seqRun c tempo (n * (stepLengthOf c tempo).toNat) q = ({ q with position := p }, events) ∧
      events.length = n := by
  induction n generalizing p with
  | zero =>
    obtain rfl : p = q.position := Fin.ext reached
    exact ⟨[], by rw [Nat.zero_mul]; rfl, rfl⟩
  | succ n ih =>
    obtain ⟨events, run, count⟩ := ih (p := ⟨q.position.val + n, by omega⟩) rfl (by simp only; omega)
    have move : seqMove { q with position := ⟨q.position.val + n, by omega⟩ } = { q with position := p } :=
      seqMove_inside reached inside
    rw [Nat.succ_mul]
    exact ⟨_, seqRun_add run (seqRun_stepLength c tempo running restarted length move),
      by rw [List.length_append, count, List.length_singleton]⟩

/-- Settles O38: all steps but the last stay inside the pattern, and the last wraps to position 0 of the same one. -/
theorem patternReturnsAfterItsPeriod : Obligations.PatternReturnsAfterItsPeriod := by
  intro c tempo q running restarted start noSwitch stepLength length nonempty
  obtain ⟨m, hm⟩ : ∃ m, (activePattern q).length.val = m + 1 := Nat.exists_eq_add_of_le' nonempty
  have last : m < Config.maxSteps := Nat.lt_of_succ_le (hm.symm.trans_le (Pattern.length_le _))
  rw [← stepLengthOf_eq_stepLength] at stepLength ⊢
  obtain ⟨events, run, count⟩ := seqRun_whole_steps c tempo running restarted stepLength m (p := ⟨m, last⟩)
    (by rw [start, Nat.zero_add]) (by rw [hm]; exact Nat.lt_succ_self m)
  have same : ({ q with position := ⟨0, by decide⟩, currentPattern := q.nextPattern } : Sequencer) = q :=
    congrArg₂ (fun p n => ({ q with position := p, currentPattern := n } : Sequencer)) (Fin.ext start.symm) noSwitch
  have wrap : seqMove { q with position := ⟨m, last⟩ } = q := (seqMove_wrap hm.le).trans same
  have whole : seqRun c tempo (length * (stepLengthOf c tempo).toNat) q =
      (q, events ++ [(q.position, activeStep q)]) := by
    rw [show length = m + 1 from hm, Nat.succ_mul]
    exact seqRun_add run (seqRun_stepLength c tempo running restarted stepLength wrap)
  simp only [whole]
  refine ⟨trivial, ?_, _, List.getLast?_concat, start⟩
  rw [List.length_append, count, List.length_singleton]
  exact hm.symm

/-! ## Which steps of the engine write the sequencer -/

/-- No instruction writes the current pattern, and only the start of a stopped sequencer writes the step length
(R175, R180, R184). -/
theorem exec_currentPattern_stepLength {i : Instr} {s t : State} (h : exec i s = .next t) :
    t.seq.currentPattern = s.seq.currentPattern ∧
    (t.seq.stepLength = s.seq.stepLength ∨
      ∃ u, i = .setRunning u ∧ u ≠ 0#32 ∧ s.seq.running = false ∧
        t.seq.stepLength = stepLengthOf s.config s.params.tempo) := by
  revert h
  cases i
  case setRunning u =>
    by_cases zero : u = 0#32
    · subst u
      rintro ⟨⟩
      exact ⟨rfl, .inl rfl⟩
    · cases running : s.seq.running
      · rw [exec_setRunning_of_stopped zero running]
        rintro ⟨⟩
        exact ⟨rfl, .inr ⟨u, rfl, zero, rfl, rfl⟩⟩
      · rw [exec_setRunning_of_running zero running]
        rintro ⟨⟩
        exact ⟨rfl, .inl rfl⟩
  case setWaveform | setStep | setPatternLength | setNextPattern | setCutoff | setResonance | setEnvMod =>
    simp only [exec, execSetWaveform, execSetStep, execSetPatternLength, execSetNextPattern, execSetCutoff,
      execSetResonance, execSetEnvMod]
    split <;> (rintro ⟨⟩; exact ⟨rfl, .inl rfl⟩)
  all_goals
    rintro ⟨⟩
    exact ⟨rfl, .inl rfl⟩

/-- What the fetch window decodes to is what the whole stream does (R142). -/
theorem decode_bytesBeforeCursor_of_window {s : State} {pos : Nat} {i : Instr} {rest : List U8}
    (window : decode (fetchWindow s pos) = .ok (i, rest)) :
    ∃ rest', decode (bytesBeforeCursor s pos) = .ok (i, rest') := by
  rw [fetchWindow_eq_take] at window
  cases whole : decode (bytesBeforeCursor s pos) with
  | error e => cases (decode_take_five_error whole).symm.trans window
  | ok result =>
    obtain ⟨i', rest'⟩ := result
    obtain ⟨r, short⟩ := decode_take_five whole
    cases short.symm.trans window
    exact ⟨rest', rfl⟩

/-- What a step of a constructed engine does to the sequencer: it writes the counter at most, or applies an
instruction, or advances it for a sample. -/
theorem step_seq_cases {s t : State} (hs : s.constructed = true) (h : step s = .next t) :
    t.seq = { s.seq with counter := t.seq.counter } ∨
    (∃ pos i rest, s.stage = .decode pos ∧ decode (bytesBeforeCursor s pos) = .ok (i, rest) ∧
      exec i { s with stage := .decode (pos + i.size) } = .next t) ∨
    ((∃ i, s.stage = .render i) ∧ t.seq = (seqAdvance s.config s.params.tempo s.seq).1) := by
  obtain ⟨-, -, rfl⟩ | ⟨-, c, rest, -, rfl⟩ | ⟨pos, i, rest, decoding, window, hexec⟩ | ⟨pos, e, -, -, rfl⟩ |
    ⟨i, render, rfl⟩ := (step_cases h).resolve_left fun hc => State.stage_ne_constructing hs _ hc.1
  · exact .inl rfl
  · exact .inl (hostMove_seq c { s with host := rest })
  · obtain ⟨rest', whole⟩ := decode_bytesBeforeCursor_of_window window
    exact .inr (.inl ⟨pos, i, rest', decoding, whole, hexec⟩)
  · exact .inl (endDecode_seq s)
  · obtain ⟨-, -, -, seq, -⟩ := voiceRender_frame s
    exact .inr (.inr ⟨⟨i, render⟩, seq⟩)

/-- Settles O36: of the steps, only an advance writes the current pattern, and only where the pattern wraps. -/
theorem patternSwitchesOnlyAtItsLoop : Obligations.PatternSwitchesOnlyAtItsLoop := by
  intro s t hs h changed
  obtain counterOnly | ⟨pos, i, rest, -, -, hexec⟩ | ⟨render, advanced⟩ := step_seq_cases hs h
  · exact absurd (congrArg Sequencer.currentPattern counterOnly) changed
  · exact absurd (exec_currentPattern_stepLength hexec).1 changed
  · rw [advanced] at changed ⊢
    exact ⟨render, wrap_of_seqAdvance_currentPattern_ne changed⟩

/-- Settles O39: of the steps, only an advance at a boundary and a start write the step length. -/
theorem stepLengthChangesAtBoundariesAndStart : Obligations.StepLengthChangesAtBoundariesAndStart := by
  intro s t hs h changed
  rw [← stepLengthOf_eq_stepLength]
  obtain counterOnly | ⟨pos, i, rest, decoding, whole, hexec⟩ | ⟨render, advanced⟩ := step_seq_cases hs h
  · exact absurd (congrArg Sequencer.stepLength counterOnly) changed
  · obtain ⟨-, same | ⟨u, rfl, nonzero, stopped, started⟩⟩ := exec_currentPattern_stepLength hexec
    · exact absurd same changed
    · exact ⟨started, .inr ⟨pos, u, rest, decoding, whole, nonzero, stopped⟩⟩
  · rw [advanced] at changed ⊢
    obtain ⟨running, boundary, stepLength⟩ := boundary_of_seqAdvance_stepLength_ne changed
    exact ⟨stepLength, .inl ⟨render, running, boundary⟩⟩

/-! ## The controls -/

/-- Settles O20: the three cases of the control. -/
theorem setRunningStartsAndStops : Obligations.SetRunningStartsAndStops := by
  refine fun u s => ⟨fun zero => ?_, exec_setRunning_of_running, fun nonzero stopped => ?_⟩
  · rw [zero, exec_setRunning_zero]
    rfl
  · rw [← stepLengthOf_eq_stepLength]
    exact ⟨(seqStart s.config s.params.tempo s.seq).position, rfl, exec_setRunning_of_stopped nonzero stopped⟩

/-- The counter of a started sequencer stands at the last sample of a step. -/
theorem seqStart_boundary (c : EngineConfig binary32) (tempo : F32) (q : Sequencer) :
    (seqStart c tempo q).stepLength.toNat ≤ (seqStart c tempo q).counter.toNat + 1 := by
  have positive := one_le_stepLengthOf c tempo
  simp only [seqStart]
  bv_omega

/-- The position of a started sequencer is the last one of the active pattern. -/
theorem seqStart_atEnd (c : EngineConfig binary32) (tempo : F32) (q : Sequencer) :
    (activePattern (seqStart c tempo q)).length.val ≤ (seqStart c tempo q).position.val + 1 :=
  le_tsub_add

/-- After a start, one advance restarts the counter at position 0 of the queued pattern and emits its step 0 (R180). -/
theorem seqAdvance_seqStart (c : EngineConfig binary32) (tempo : F32) (q : Sequencer) :
    seqAdvance c tempo (seqStart c tempo q) =
      ({ seqStart c tempo q with counter := 0#32, position := ⟨0, by decide⟩, currentPattern := q.nextPattern },
        some (⟨0, by decide⟩, (patternAt q q.nextPattern).steps[0])) := by
  rw [seqAdvance_of_boundary c tempo rfl (seqStart_boundary ..), seqBoundary_of_end c tempo (seqStart_atEnd ..)]
  rfl

/-- Settles O21: a start is followed by a boundary at the pattern's end. -/
theorem firstSampleAfterStartEmitsStepZero : Obligations.FirstSampleAfterStartEmitsStepZero :=
  fun _ s _ nonzero stopped => ⟨_, exec_setRunning_of_stopped nonzero stopped, _,
    seqAdvance_seqStart s.config s.params.tempo s.seq, rfl, rfl, rfl⟩

/-- Settles O22, by whether the operand is accepted. -/
theorem setTempoStoresAPositiveTempo : Obligations.SetTempoStoresAPositiveTempo := by
  intro v s
  rw [fnat_zero]
  refine ⟨fun bad => ?_, fun hv positive => ?_⟩
  · simp only [exec, execSetTempo, sanitiseTempo_of_bad bad]
    rfl
  · simp only [exec, execSetTempo, sanitiseTempo_of_good hv positive]
    rfl

/-- Settles O25, by whether the index is a legal one. -/
theorem indexControlsStoreALegalIndex : Obligations.IndexControlsStoreALegalIndex :=
  fun _ s => ⟨exec_setNextPattern_of_index, exec_setNextPattern_of_badIndex, exec_setWaveform_of_index s,
    exec_setWaveform_of_badIndex s⟩

end Sys2Proof.Machine
end

section
/-! PROOFS: the values of the encodings, and what rounding keeps of them (00_scope.md R12): the order with the numbers
of the format, and every result that the format has. The statements about the oscillator and the wavetable rest on
it. -/

namespace Sys2Proof.Machine

variable {F : Format}

/-! ## Codes and their values -/

/-- The value of a magnitude code in units of the smallest quantum: a code below 2^fracBits is a subnormal's. -/
def codeUnits (F : Format) (c : Nat) : Nat :=
  if c / 2 ^ F.fracBits = 0 then c else (2 ^ F.fracBits + c % 2 ^ F.fracBits) * 2 ^ (c / 2 ^ F.fracBits - 1)

/-- The value of a magnitude code; at the code of infinity, what the next number of a wider format would be. -/
def codeValue (F : Format) (c : Nat) : ℚ := codeUnits F c * 2 ^ minQuantum F

/-- Every significand `sig` at the quantum `k` above the smallest has the code `k * 2^fracBits + sig`. -/
theorem codeUnits_add {k sig : Nat} (normal : 2 ^ F.fracBits ≤ sig ∨ k = 0) (bound : sig ≤ 2 ^ (F.fracBits + 1)) :
    codeUnits F (k * 2 ^ F.fracBits + sig) = sig * 2 ^ k := by
  have pos : 0 < 2 ^ F.fracBits := Nat.two_pow_pos _
  rw [pow_succ] at bound
  simp only [codeUnits]
  generalize 2 ^ F.fracBits = b at *
  rcases lt_or_ge sig b with small | large
  · obtain rfl : k = 0 := normal.resolve_left (Nat.not_le.mpr small)
    simp [Nat.div_eq_of_lt small]
  · rcases Nat.lt_or_ge sig (2 * b) with inside | top
    · have split : k * b + sig = (sig - b) + b * (k + 1) := by
        rw [mul_add, mul_comm b k]
        omega
      rw [split, Nat.add_mul_div_left _ _ pos, Nat.add_mul_mod_self_left, Nat.div_eq_of_lt (by omega),
        Nat.mod_eq_of_lt (by omega), if_neg (by omega), Nat.add_sub_cancel' large]
      congr 2
      omega
    · obtain rfl : sig = 2 * b := by omega
      have split : k * b + 2 * b = b * (k + 2) := by ring
      rw [split, Nat.mul_div_cancel_left _ pos, Nat.mul_mod_right, if_neg (by omega), Nat.add_sub_assoc (by omega)]
      ring

theorem codeUnits_zero : codeUnits F 0 = 0 := by simp [codeUnits]

/-- A code is its quantum and its significand. -/
theorem exists_quantum_significand (F : Format) (c : Nat) : ∃ k sig, c = k * 2 ^ F.fracBits + sig ∧
    (2 ^ F.fracBits ≤ sig ∨ k = 0) ∧ sig < 2 ^ (F.fracBits + 1) ∧ k = c / 2 ^ F.fracBits - 1 := by
  have pos : 0 < 2 ^ F.fracBits := Nat.two_pow_pos _
  have low := Nat.mod_lt c pos
  have parts := Nat.div_add_mod' c (2 ^ F.fracBits)
  rw [pow_succ]
  rcases h : c / 2 ^ F.fracBits with _ | k
  · rw [h] at parts
    exact ⟨0, c % 2 ^ F.fracBits, by omega, .inr rfl, by omega, rfl⟩
  · rw [h, Nat.succ_mul] at parts
    exact ⟨k, 2 ^ F.fracBits + c % 2 ^ F.fracBits, by omega, .inl (by omega), by omega, rfl⟩

/-- The next code's value is one quantum more. -/
theorem codeUnits_succ (c : Nat) : codeUnits F (c + 1) = codeUnits F c + 2 ^ (c / 2 ^ F.fracBits - 1) := by
  obtain ⟨k, sig, rfl, normal, bound, hk⟩ := exists_quantum_significand F c
  rw [← hk, Nat.add_assoc, codeUnits_add (normal.imp_left (by omega)) bound, codeUnits_add normal bound.le,
    Nat.succ_mul]

theorem codeUnits_strictMono : StrictMono (codeUnits F) :=
  strictMono_nat_of_lt_succ fun c => by
    rw [codeUnits_succ]
    exact Nat.lt_add_of_pos_right (Nat.two_pow_pos _)

theorem quantum_pos (z : ℤ) : (0 : ℚ) < 2 ^ z := zpow_pos two_pos z

/-- A shift from the exponent `e` to the lower `q`. -/
theorem two_pow_toNat_mul {q e : ℤ} (h : q ≤ e) : (2 : ℚ) ^ (e - q).toNat * 2 ^ q = 2 ^ e := by
  rw [← zpow_natCast, Int.toNat_of_nonneg (sub_nonneg.mpr h), ← zpow_add₀ two_ne_zero, sub_add_cancel]

theorem codeValue_strictMono : StrictMono (codeValue F) := fun _ _ h =>
  mul_lt_mul_of_pos_right (Nat.cast_lt.mpr (codeUnits_strictMono h)) (quantum_pos _)

theorem codeValue_zero : codeValue F 0 = 0 := by simp [codeValue, codeUnits_zero]

theorem codeValue_nonneg (c : Nat) : 0 ≤ codeValue F c := mul_nonneg (Nat.cast_nonneg _) (quantum_pos _).le

theorem codeValue_add {k sig : Nat} (normal : 2 ^ F.fracBits ≤ sig ∨ k = 0) (bound : sig ≤ 2 ^ (F.fracBits + 1)) :
    codeValue F (k * 2 ^ F.fracBits + sig) = sig * 2 ^ (k + minQuantum F) := by
  rw [codeValue, codeUnits_add normal bound, zpow_add₀ two_ne_zero]
  push_cast
  rw [zpow_natCast, mul_assoc]

theorem codeValue_succ (c : Nat) :
    codeValue F (c + 1) = codeValue F c + 2 ^ (((c / 2 ^ F.fracBits - 1 : Nat) : ℤ) + minQuantum F) := by
  rw [codeValue, codeUnits_succ, codeValue, zpow_add₀ two_ne_zero]
  push_cast
  rw [zpow_natCast, add_mul]

/-! ## Rounding -/

/-- `roundShift` is within one half of the quotient. -/
theorem roundShift_bounds (m k : Nat) : 2 * (roundShift m k * 2 ^ k) ≤ 2 * m + 2 ^ k ∧
    2 * m ≤ 2 * (roundShift m k * 2 ^ k) + 2 ^ k := by
  have low := Nat.mod_lt m (Nat.two_pow_pos k)
  have parts := Nat.div_add_mod' m (2 ^ k)
  simp only [roundShift]
  split
  · rw [Nat.add_mul, Nat.one_mul]
    omega
  · omega

/-- How the number `x`, not negative, is rounded: to the significand `sig` at the quantum `k` above the smallest. -/
structure RoundsTo (F : Format) (x : ℚ) (k sig : Nat) : Prop where
  normal : 2 ^ F.fracBits ≤ sig ∨ k = 0
  bound : sig ≤ 2 ^ (F.fracBits + 1)
  below : 2 * (sig * 2 ^ (k + minQuantum F)) ≤ 2 * x + 2 ^ (k + minQuantum F)
  above : 2 * x ≤ 2 * (sig * 2 ^ (k + minQuantum F)) + 2 ^ (k + minQuantum F)
  /-- Above the smallest quantum the number itself fills the significand. -/
  large : k = 0 ∨ 2 ^ F.fracBits * 2 ^ (k + minQuantum F) ≤ x

/-- What is at least an integral multiple of the quantum rounds to at least that. -/
theorem le_of_mul_quantum_le {x : ℚ} {n sig : Nat} {q : ℤ} (above : 2 * x ≤ 2 * (sig * 2 ^ q) + 2 ^ q)
    (h : n * 2 ^ q ≤ x) : n ≤ sig := by
  have scaled : (n : ℚ) * 2 ^ q < ((sig + 1 : Nat) : ℚ) * 2 ^ q := by
    push_cast
    linarith [quantum_pos q]
  exact Nat.lt_succ_iff.mp (Nat.cast_lt.mp (lt_of_mul_lt_mul_right scaled (quantum_pos q).le))

/-- What is at most an integral multiple of the quantum rounds to at most that. -/
theorem le_of_le_mul_quantum {x : ℚ} {n sig : Nat} {q : ℤ} (below : 2 * (sig * 2 ^ q) ≤ 2 * x + 2 ^ q)
    (h : x ≤ n * 2 ^ q) : sig ≤ n := by
  have scaled : (sig : ℚ) * 2 ^ q < ((n + 1 : Nat) : ℚ) * 2 ^ q := by
    push_cast
    linarith [quantum_pos q]
  exact Nat.lt_succ_iff.mp (Nat.cast_lt.mp (lt_of_mul_lt_mul_right scaled (quantum_pos q).le))

/-- The significand that `roundCode` takes at the quantum `2^q` is within half a unit of `m * 2^e`. -/
theorem significand_bounds (m : Nat) (e q : ℤ) :
    let sig := if q ≤ e then m * 2 ^ (e - q).toNat else roundShift m (q - e).toNat
    2 * ((sig : ℚ) * 2 ^ q) ≤ 2 * (m * 2 ^ e) + 2 ^ q ∧ 2 * ((m : ℚ) * 2 ^ e) ≤ 2 * (sig * 2 ^ q) + 2 ^ q := by
  intro sig
  rcases le_or_gt q e with le | lt
  · have exact : (sig : ℚ) * 2 ^ q = m * 2 ^ e := by
      rw [show sig = m * 2 ^ (e - q).toNat from if_pos le]
      push_cast
      rw [mul_assoc, two_pow_toNat_mul le]
    rw [exact]
    constructor <;> linarith [quantum_pos q]
  · obtain ⟨low, high⟩ := roundShift_bounds m (q - e).toNat
    rw [← mul_assoc] at low high
    rw [show sig = roundShift m (q - e).toNat from if_neg (not_le_of_gt lt), ← two_pow_toNat_mul lt.le, ← mul_assoc,
      ← mul_assoc, ← mul_assoc, ← add_mul, ← add_mul]
    exact ⟨mul_le_mul_of_nonneg_right (by exact_mod_cast low) (quantum_pos e).le,
      mul_le_mul_of_nonneg_right (by exact_mod_cast high) (quantum_pos e).le⟩

/-- A number lies between the powers of two that its significand's length gives. -/
theorem mul_quantum_log2_bounds {m : Nat} (positive : 0 < m) (e : ℤ) :
    (2 : ℚ) ^ (Nat.log2 m + e) ≤ m * 2 ^ e ∧ (m : ℚ) * 2 ^ e ≤ 2 ^ ((Nat.log2 m + 1 : Nat) + e) := by
  have low : (2 : ℚ) ^ Nat.log2 m ≤ m := by exact_mod_cast Nat.log2_self_le positive.ne'
  have high : (m : ℚ) ≤ 2 ^ (Nat.log2 m + 1) := by exact_mod_cast Nat.lt_log2_self.le
  rw [zpow_add₀ two_ne_zero, zpow_add₀ two_ne_zero, zpow_natCast, zpow_natCast]
  exact ⟨mul_le_mul_of_nonneg_right low (quantum_pos e).le, mul_le_mul_of_nonneg_right high (quantum_pos e).le⟩

/-- `roundCode` gives the code of the significand and the quantum that the number rounds to, up to infinity's. -/
theorem exists_roundsTo (hF : 0 < F.expBits) (m : Nat) (e : ℤ) :
    ∃ k sig, RoundsTo F (m * 2 ^ e) k sig ∧ roundCode F m e = min (k * 2 ^ F.fracBits + sig) (infCode F) := by
  rcases Nat.eq_zero_or_pos m with rfl | positive
  · have quantum := quantum_pos ((0 : Nat) + minQuantum F)
    refine ⟨0, 0, ⟨.inr rfl, Nat.zero_le _, ?_, ?_, .inl rfl⟩, by simp [roundCode]⟩
    · simpa using quantum.le
    · simpa using quantum.le
  · set q := max (e + Nat.log2 m - F.fracBits) (minQuantum F) with hq
    set sig := if q ≤ e then m * 2 ^ (e - q).toNat else roundShift m (q - e).toNat
    obtain ⟨k, hk⟩ : ∃ k : Nat, k + minQuantum F = q := ⟨(q - minQuantum F).toNat, by omega⟩
    obtain ⟨below, above⟩ := significand_bounds m e q
    obtain ⟨low, top⟩ := mul_quantum_log2_bounds positive e
    have high : (m : ℚ) * 2 ^ e ≤ (2 ^ (F.fracBits + 1) : Nat) * 2 ^ q := by
      refine top.trans ?_
      rw [Nat.cast_pow, Nat.cast_ofNat, ← zpow_natCast, ← zpow_add₀ two_ne_zero]
      exact zpow_le_zpow_right₀ one_le_two (by omega)
    have large : k = 0 ∨ 2 ^ F.fracBits * 2 ^ q ≤ (m : ℚ) * 2 ^ e := by
      refine (Nat.eq_zero_or_pos k).imp_right fun raised => le_trans (le_of_eq ?_) low
      rw [← zpow_natCast, ← zpow_add₀ two_ne_zero]
      congr 1
      omega
    have normal : 2 ^ F.fracBits ≤ sig ∨ k = 0 :=
      (large.imp_right fun h => le_of_mul_quantum_le above (by exact_mod_cast h)).symm
    refine ⟨k, sig, ⟨normal, le_of_le_mul_quantum below high, hk ▸ below, hk ▸ above, hk ▸ large⟩, ?_⟩
    have code : roundCode F m e = if sig < 2 ^ F.fracBits then sig
        else min (((q - minQuantum F).toNat + 1) * 2 ^ F.fracBits + (sig - 2 ^ F.fracBits)) (infCode F) :=
      if_neg positive.ne'
    rw [code, show (q - minQuantum F).toNat = k by omega]
    split
    · obtain rfl : k = 0 := normal.resolve_left (by omega)
      have finite : 2 ^ F.fracBits ≤ infCode F :=
        Nat.le_mul_of_pos_left _ (Nat.sub_pos_of_lt (Nat.one_lt_two_pow hF.ne'))
      omega
    · rw [Nat.add_mul]
      congr 1
      omega

theorem RoundsTo.codeValue_eq {x : ℚ} {k sig : Nat} (h : RoundsTo F x k sig) :
    codeValue F (k * 2 ^ F.fracBits + sig) = sig * 2 ^ (k + minQuantum F) :=
  codeValue_add h.normal h.bound

/-- The rounded number is at least the midpoint of the value below its code and its own. -/
theorem RoundsTo.midpoint_le {x : ℚ} {k sig c : Nat} (h : RoundsTo F x k sig) (hc : c < k * 2 ^ F.fracBits + sig) :
    codeValue F c + codeValue F (c + 1) ≤ 2 * x := by
  have own := h.codeValue_eq
  have mono := codeValue_strictMono (F := F).monotone
  rcases le_or_gt (codeValue F (k * 2 ^ F.fracBits + sig)) x with le | lt
  · linarith [mono hc.le, mono (Nat.succ_le_of_lt hc)]
  · rw [own] at lt
    obtain ⟨s, rfl⟩ : ∃ s, sig = s + 1 := Nat.exists_eq_add_one.mpr (by
      by_contra none
      obtain rfl : k = 0 := h.normal.resolve_left (by have := Nat.two_pow_pos F.fracBits; omega)
      omega)
    have normal : 2 ^ F.fracBits ≤ s ∨ k = 0 := h.large.symm.imp_left fun large => by
      have : (2 : ℚ) ^ F.fracBits < (s + 1 : Nat) := lt_of_mul_lt_mul_right (large.trans_lt lt) (quantum_pos _).le
      exact Nat.lt_succ_iff.mp (by exact_mod_cast this)
    have previous := codeValue_add (F := F) normal (Nat.le_of_succ_le h.bound)
    have below := h.below
    have lower := mono (show c ≤ k * 2 ^ F.fracBits + s by omega)
    have upper := mono (Nat.succ_le_of_lt hc)
    rw [previous] at lower
    rw [own] at upper
    push_cast at upper below
    linarith

/-- The rounded number is at most the midpoint of its code's value and the next one. -/
theorem RoundsTo.le_midpoint {x : ℚ} {k sig c : Nat} (h : RoundsTo F x k sig) (hc : k * 2 ^ F.fracBits + sig ≤ c) :
    2 * x ≤ codeValue F c + codeValue F (c + 1) := by
  have mono := codeValue_strictMono (F := F).monotone
  have step : k ≤ (k * 2 ^ F.fracBits + sig) / 2 ^ F.fracBits - 1 := by
    rcases h.normal with large | rfl
    · have : k + 1 ≤ (k * 2 ^ F.fracBits + sig) / 2 ^ F.fracBits :=
        (Nat.le_div_iff_mul_le (Nat.two_pow_pos _)).mpr (by rw [Nat.add_mul]; omega)
      omega
    · exact Nat.zero_le _
  have spacing : (2 : ℚ) ^ (k + minQuantum F) ≤
      2 ^ ((((k * 2 ^ F.fracBits + sig) / 2 ^ F.fracBits - 1 : Nat) : ℤ) + minQuantum F) :=
    zpow_le_zpow_right₀ one_le_two (by omega)
  have next := codeValue_succ (F := F) (k * 2 ^ F.fracBits + sig)
  rw [h.codeValue_eq] at next
  have own := mono hc
  rw [h.codeValue_eq] at own
  linarith [h.above, mono (Nat.succ_le_succ hc)]

section
variable (hF : 0 < F.expBits)
include hF

theorem roundCode_le_of_lt_midpoint {m c : Nat} {e : ℤ} (h : 2 * (m * 2 ^ e) < codeValue F c + codeValue F (c + 1)) :
    roundCode F m e ≤ c := by
  obtain ⟨k, sig, rounds, code⟩ := exists_roundsTo hF m e
  by_contra above
  exact absurd (rounds.midpoint_le (c := c) (by omega)) (not_le_of_gt h)

theorem lt_roundCode_of_midpoint_lt {m c : Nat} {e : ℤ} (h : codeValue F c + codeValue F (c + 1) < 2 * (m * 2 ^ e))
    (hc : c < infCode F) : c < roundCode F m e := by
  obtain ⟨k, sig, rounds, code⟩ := exists_roundsTo hF m e
  by_contra below
  exact absurd (rounds.le_midpoint (c := c) (by omega)) (not_le_of_gt h)

/-- Rounding keeps the order with a number of the format. -/
theorem roundCode_le_of_le {m c : Nat} {e : ℤ} (h : m * 2 ^ e ≤ codeValue F c) : roundCode F m e ≤ c :=
  roundCode_le_of_lt_midpoint hF (by linarith [codeValue_strictMono (F := F) (Nat.lt_succ_self c)])

/-- A number of the format is rounded to itself. -/
theorem roundCode_eq_of_eq {m c : Nat} {e : ℤ} (h : m * 2 ^ e = codeValue F c) (hc : c ≤ infCode F) :
    roundCode F m e = c := by
  refine le_antisymm (roundCode_le_of_le hF h.le) ?_
  cases c with
  | zero => exact Nat.zero_le _
  | succ c =>
    exact lt_roundCode_of_midpoint_lt hF (by linarith [codeValue_strictMono (F := F) (Nat.lt_succ_self c)]) hc

/-- A significand that fits, at a quantum that the format has, is the value of a code. -/
theorem exists_codeValue_eq {m : Nat} {e : ℤ} (hm : m < 2 ^ (F.fracBits + 1)) (he : minQuantum F ≤ e) :
    ∃ c, codeValue F c = m * 2 ^ e := by
  obtain ⟨k, sig, rounds, -⟩ := exists_roundsTo hF m e
  have fits : k + minQuantum F ≤ e := by
    rcases rounds.large with rfl | large
    · simpa using he
    · have top : (m : ℚ) * 2 ^ e < 2 ^ (F.fracBits + 1) * 2 ^ e :=
        mul_lt_mul_of_pos_right (by exact_mod_cast hm) (quantum_pos e)
      have := large.trans_lt top
      rw [← zpow_natCast, ← zpow_natCast, ← zpow_add₀ two_ne_zero, ← zpow_add₀ two_ne_zero,
        zpow_lt_zpow_iff_right₀ one_lt_two] at this
      push_cast at this
      omega
  have exact : (m : ℚ) * 2 ^ e = (m * 2 ^ (e - (k + minQuantum F)).toNat : Nat) * 2 ^ (k + minQuantum F) := by
    push_cast
    rw [mul_assoc, two_pow_toNat_mul fits]
  refine ⟨k * 2 ^ F.fracBits + sig, ?_⟩
  rw [rounds.codeValue_eq, exact,
    le_antisymm (le_of_le_mul_quantum rounds.below exact.le) (le_of_mul_quantum_le rounds.above exact.ge)]

end

/-! ## Encodings and their values -/

/-- The magnitude code of an encoding: all its bits but the sign. -/
def magCode (a : REAL F) : Nat := a.toNat % signWeight F

/-- The sign bit of an encoding. -/
def negative (a : REAL F) : Bool := decide (signWeight F ≤ a.toNat)

theorem two_pow_width (F : Format) : 2 ^ F.width = 2 * signWeight F := by
  rw [signWeight, ← pow_succ', Format.width]
  congr 1
  omega

theorem toNat_lt_two_signWeight (a : REAL F) : a.toNat < 2 * signWeight F :=
  a.isLt.trans_eq (two_pow_width F)

theorem infCode_lt_signWeight (F : Format) : infCode F < signWeight F := by
  rw [infCode, signWeight, pow_add, mul_comm]
  exact Nat.mul_lt_mul_of_pos_left (Nat.sub_lt (Nat.two_pow_pos _) one_pos) (Nat.two_pow_pos _)

theorem finite_iff {a : REAL F} : finite a = true ↔ magCode a < infCode F := by
  simp only [finite, magCode, decide_eq_true_eq]

theorem isNaN_iff {a : REAL F} : isNaN a = true ↔ infCode F < magCode a := by
  simp only [isNaN, magCode, decide_eq_true_eq]

theorem isNaN_eq_false_of_finite {a : REAL F} (h : finite a = true) : isNaN a = false := by
  rw [finite_iff] at h
  exact Bool.eq_false_iff.mpr (mt isNaN_iff.mp h.not_gt)

section
variable (neg : Bool) {c : Nat} (hc : c ≤ infCode F)
include hc

theorem toNat_encoded : (encoded F neg c).toNat = withSign F neg c := by
  rw [encoded, BitVec.toNat_ofNat]
  refine Nat.mod_eq_of_lt ?_
  have := infCode_lt_signWeight F
  rw [two_pow_width, withSign]
  split <;> omega

@[simp] theorem magCode_encoded : magCode (encoded F neg c) = c := by
  have := hc.trans_lt (infCode_lt_signWeight F)
  rw [magCode, toNat_encoded neg hc, withSign]
  split
  · rw [Nat.add_mod_left, Nat.mod_eq_of_lt this]
  · rw [Nat.zero_add, Nat.mod_eq_of_lt this]

@[simp] theorem negative_encoded : negative (encoded F neg c) = neg := by
  have := hc.trans_lt (infCode_lt_signWeight F)
  rw [negative, toNat_encoded neg hc, withSign]
  cases neg
  · simpa using this
  · simp

end

/-- `x` with a sign. -/
def signed (neg : Bool) (x : ℚ) : ℚ := if neg then -x else x

@[simp] theorem signed_false (x : ℚ) : signed false x = x := rfl
@[simp] theorem signed_true (x : ℚ) : signed true x = -x := rfl

theorem abs_signed (neg : Bool) {x : ℚ} (h : 0 ≤ x) : |signed neg x| = x := by
  cases neg
  · exact abs_of_nonneg h
  · exact (abs_neg x).trans (abs_of_nonneg h)

theorem signed_mul (a b : Bool) (x y : ℚ) : signed (a != b) (x * y) = signed a x * signed b y := by
  cases a <;> cases b <;> simp

theorem signed_div (a b : Bool) (x y : ℚ) : signed (a != b) (x / y) = signed a x / signed b y := by
  cases a <;> cases b <;> simp [div_neg, neg_div]

theorem signed_not (a : Bool) (x : ℚ) : signed (!a) x = -signed a x := by
  cases a <;> simp

/-- The value of a finite encoding. -/
def value (a : REAL F) : ℚ := signed (negative a) (codeValue F (magCode a))

/-- The sign that `unpack` reads. -/
theorem unpack_sign (a : REAL F) : (a.toNat / signWeight F % 2 == 1) = negative a := by
  have lt := toNat_lt_two_signWeight a
  have pos : 0 < signWeight F := Nat.two_pow_pos _
  by_cases high : signWeight F ≤ a.toNat
  · rw [negative, decide_eq_true high, Nat.div_eq_of_lt_le (k := 1) (by omega) (by omega)]
    rfl
  · rw [negative, decide_eq_false high, Nat.div_eq_of_lt (by omega)]
    rfl

/-- A finite encoding stands for `(-1)^neg * m * 2^e`, with a significand and a quantum of the format. -/
theorem datum_of_finite {a : REAL F} (h : finite a = true) : ∃ m e, datum a = .fin (negative a) m e ∧
    (m : ℚ) * 2 ^ e = codeValue F (magCode a) ∧ m < 2 ^ (F.fracBits + 1) ∧ minQuantum F ≤ e := by
  rw [finite_iff] at h
  obtain ⟨k, sig, code, normal, bound, hk⟩ := exists_quantum_significand F (magCode a)
  refine ⟨sig, k + minQuantum F, ?_, ?_, bound, by omega⟩
  · have magnitude : a.toNat % signWeight F = magCode a := rfl
    have parts := Nat.div_add_mod' (magCode a) (2 ^ F.fracBits)
    have low := Nat.mod_lt (magCode a) (Nat.two_pow_pos F.fracBits)
    simp only [datum, unpack, unpack_sign, magnitude, if_neg h.not_gt, if_neg h.ne]
    split
    · rename_i subnormal
      rw [subnormal] at parts hk
      obtain rfl : k = 0 := hk
      simp only [Num.fin.injEq, true_and]
      exact ⟨by omega, by simp⟩
    · rename_i positive
      obtain ⟨j, hj⟩ := Nat.exists_eq_succ_of_ne_zero positive
      rw [hj] at parts hk
      obtain rfl : k = j := hk
      rw [hj, Nat.succ_eq_add_one, Nat.add_sub_cancel, add_comm (minQuantum F)]
      rw [Nat.succ_mul] at parts
      simp only [Num.fin.injEq, true_and, and_true]
      omega
  · rw [code, codeValue_add normal bound.le]

/-- `a` is finite and its value is `x`. -/
structure Denotes (a : REAL F) (x : ℚ) : Prop where
  finite : finite a = true
  value : value a = x

theorem Denotes.datum {a : REAL F} {x : ℚ} (h : Denotes a x) :
    ∃ neg m e, datum a = .fin neg m e ∧ signed neg (m * 2 ^ e) = x := by
  obtain ⟨m, e, data, eq, -⟩ := datum_of_finite h.finite
  exact ⟨negative a, m, e, data, by rw [eq, ← h.value, Machine.value]⟩

/-- `x` is the value of a finite encoding. -/
def Representable (F : Format) (x : ℚ) : Prop := ∃ c, c < infCode F ∧ codeValue F c = |x|

theorem Denotes.representable {a : REAL F} {x : ℚ} (h : Denotes a x) : Representable F x :=
  ⟨magCode a, finite_iff.mp h.finite, by rw [← h.value, Machine.value, abs_signed _ (codeValue_nonneg _)]⟩

theorem denotes_encoded (neg : Bool) {c : Nat} (hc : c < infCode F) :
    Denotes (encoded F neg c) (signed neg (codeValue F c)) := by
  constructor
  · rwa [finite_iff, magCode_encoded _ hc.le]
  · rw [value, magCode_encoded _ hc.le, negative_encoded _ hc.le]

theorem codeValue_lt_iff {c d : Nat} : codeValue F c < codeValue F d ↔ c < d := codeValue_strictMono.lt_iff_lt

/-- The order of the finite encodings is that of their values (R12). -/
theorem orderKey_lt_iff {a b : REAL F} : orderKey a < orderKey b ↔ value a < value b := by
  have key (c : REAL F) : orderKey c = if negative c then -(magCode c : ℤ) else (magCode c : ℤ) := by
    simp only [orderKey, negative, decide_eq_true_eq, magCode]
  have za := codeValue_nonneg (F := F) (magCode a)
  have zb := codeValue_nonneg (F := F) (magCode b)
  have zero (c : Nat) : 0 < codeValue F c ↔ 0 < c := by rw [← codeValue_lt_iff (F := F), codeValue_zero]
  rw [key, key, value, value]
  cases negative a <;> cases negative b
  · simp [codeValue_lt_iff]
  · simp only [Bool.false_eq_true, if_false, if_true, signed_false, signed_true]
    exact iff_of_false (by omega) (by linarith)
  · simp only [Bool.false_eq_true, if_false, if_true, signed_false, signed_true]
    have positive := (zero (magCode a)).or (zero (magCode b))
    constructor
    · intro lt
      rcases positive.mpr (by omega) with h | h <;> linarith
    · intro lt
      have := positive.mp (by by_contra! none; linarith)
      omega
  · simp [codeValue_lt_iff]

theorem flt_iff_of_denotes {a b : REAL F} {x y : ℚ} (ha : Denotes a x) (hb : Denotes b y) :
    flt a b = true ↔ x < y := by
  rw [← ha.value, ← hb.value, ← orderKey_lt_iff]
  simp [flt, isNaN_eq_false_of_finite ha.finite, isNaN_eq_false_of_finite hb.finite]

theorem fle_iff_of_denotes {a b : REAL F} {x y : ℚ} (ha : Denotes a x) (hb : Denotes b y) :
    fle a b = true ↔ x ≤ y := by
  rw [← ha.value, ← hb.value, ← not_lt, ← orderKey_lt_iff, not_lt]
  simp [fle, isNaN_eq_false_of_finite ha.finite, isNaN_eq_false_of_finite hb.finite]

/-! ## Exact results -/

theorem alignedInt_mul_quantum (neg : Bool) (m : Nat) {e q : ℤ} (h : q ≤ e) :
    (alignedInt neg m e q : ℚ) * 2 ^ q = signed neg (m * 2 ^ e) := by
  have scaled : ((m * 2 ^ (e - q).toNat : Nat) : ℚ) * 2 ^ q = m * 2 ^ e := by
    push_cast
    rw [mul_assoc, two_pow_toNat_mul h]
  rw [← scaled, alignedInt]
  cases neg <;> simp

theorem signed_natAbs (z : ℤ) (q : ℤ) : signed (decide (z < 0)) (z.natAbs * 2 ^ q) = z * 2 ^ q := by
  rw [Nat.cast_natAbs]
  rcases lt_or_ge z 0 with h | h
  · simp [h, abs_of_neg h]
  · simp [h.not_gt, abs_of_nonneg h]

theorem exactAdd_value (a b : Bool) (m n : Nat) (e d : ℤ) :
    ∃ neg k q, exactAdd (.fin a m e) (.fin b n d) = .fin neg k q ∧
      signed neg (k * 2 ^ q) = signed a (m * 2 ^ e) + signed b (n * 2 ^ d) := by
  rw [← alignedInt_mul_quantum a m (min_le_left e d), ← alignedInt_mul_quantum b n (min_le_right e d), ← add_mul,
    ← Int.cast_add]
  simp only [exactAdd]
  split
  · rename_i zero
    exact ⟨_, _, _, rfl, by simp [zero, signed]⟩
  · exact ⟨_, _, _, rfl, signed_natAbs _ _⟩

theorem exactMul_value (a b : Bool) (m n : Nat) (e d : ℤ) :
    ∃ neg k q, exactMul (.fin a m e) (.fin b n d) = .fin neg k q ∧
      signed neg (k * 2 ^ q) = signed a (m * 2 ^ e) * signed b (n * 2 ^ d) := by
  refine ⟨a != b, m * n, e + d, rfl, ?_⟩
  rw [← signed_mul, zpow_add₀ two_ne_zero]
  push_cast
  congr 1
  ring

/-- The quotient with its last bit keeps the order with every multiple of the quantum before that bit. -/
theorem scaledQuotient_fst_le {fracBits m n t : Nat}
    (h : m * 2 ^ (fracBits + 3 + Nat.log2 n) ≤ n * t) : (scaledQuotient fracBits m n).1 ≤ 2 * t := by
  simp only [scaledQuotient]
  generalize m * 2 ^ (fracBits + 3 + Nat.log2 n) = p at *
  have whole : p / n ≤ t := Nat.div_le_of_le_mul h
  split
  · omega
  · rename_i cut
    have : p / n ≠ t := by
      rintro rfl
      exact cut (Nat.mod_eq_zero_of_dvd ⟨_, le_antisymm h (Nat.mul_div_le p n)⟩)
    omega

theorem le_scaledQuotient_fst {fracBits m n t : Nat} (positive : 0 < n)
    (h : n * t ≤ m * 2 ^ (fracBits + 3 + Nat.log2 n)) : 2 * t ≤ (scaledQuotient fracBits m n).1 := by
  simp only [scaledQuotient]
  have whole : t ≤ m * 2 ^ (fracBits + 3 + Nat.log2 n) / n :=
    (Nat.le_div_iff_mul_le positive).mpr (by rwa [mul_comm])
  omega

/-- The quotient is exact where the division leaves no remainder. -/
theorem scaledQuotient_value_of_dvd {fracBits m n : Nat} (positive : 0 < n)
    (h : n ∣ m * 2 ^ (fracBits + 3 + Nat.log2 n)) :
    ((scaledQuotient fracBits m n).1 : ℚ) * 2 ^ (scaledQuotient fracBits m n).2 = m / n := by
  obtain ⟨t, ht⟩ := h
  have exact : (scaledQuotient fracBits m n).1 = 2 * t :=
    le_antisymm (scaledQuotient_fst_le ht.le) (le_scaledQuotient_fst positive ht.ge)
  rw [exact, eq_div_iff (by exact_mod_cast positive.ne'), scaledQuotient]
  generalize fracBits + 3 + Nat.log2 n = k at *
  have scaled : (m : ℚ) * 2 ^ k = n * t := by exact_mod_cast ht
  have unit : (2 : ℚ) ^ (-(k + 1 : Nat) : ℤ) * 2 ^ (k + 1) = 1 := by
    rw [← zpow_natCast, ← zpow_add₀ two_ne_zero, neg_add_cancel, zpow_zero]
  calc ((2 * t : Nat) : ℚ) * 2 ^ (-(k + 1 : Nat) : ℤ) * n = 2 * 2 ^ (-(k + 1 : Nat) : ℤ) * (n * t) := by push_cast; ring
    _ = m * (2 ^ (-(k + 1 : Nat) : ℤ) * 2 ^ (k + 1)) := by rw [← scaled]; ring
    _ = m := by rw [unit, mul_one]

/-- The floor is exact (R12). -/
theorem exactFloor_value (m : Nat) (e : ℤ) :
    ∃ k q, exactFloor (.fin false m e) = .fin false k q ∧ (k : ℚ) * 2 ^ q = ⌊(m : ℚ) * 2 ^ e⌋ := by
  simp only [exactFloor]
  split
  · rename_i whole
    obtain ⟨n, rfl⟩ := Int.eq_ofNat_of_zero_le whole
    refine ⟨m, n, rfl, ?_⟩
    rw [zpow_natCast, show (m : ℚ) * 2 ^ n = (m * 2 ^ n : ℤ) by push_cast; rfl, Int.floor_intCast]
  · obtain ⟨n, rfl⟩ : ∃ n : Nat, e = -n := ⟨(-e).toNat, by omega⟩
    refine ⟨_, _, rfl, ?_⟩
    have floor : ⌊(m : ℚ) / 2 ^ n⌋ = (m / 2 ^ n : Nat) := by exact_mod_cast Rat.floor_natCast_div_natCast m (2 ^ n)
    rw [neg_neg, Int.toNat_natCast, zpow_zero, mul_one, zpow_neg, zpow_natCast, ← div_eq_mul_inv, floor]
    rfl

theorem Denotes.datum_of_pos {a : REAL F} {x : ℚ} (h : Denotes a x) (positive : 0 < x) :
    ∃ m e, Machine.datum a = .fin false m e ∧ (m : ℚ) * 2 ^ e = x := by
  obtain ⟨neg, m, e, data, eq⟩ := h.datum
  have nonneg : (0 : ℚ) ≤ m * 2 ^ e := mul_nonneg (Nat.cast_nonneg _) (quantum_pos e).le
  cases neg
  · exact ⟨m, e, data, eq⟩
  · rw [signed_true] at eq
    linarith

/-- A significand of a power of two is one. -/
theorem exists_eq_two_pow {n : Nat} {d j : ℤ} (h : (n : ℚ) * 2 ^ d = 2 ^ j) : ∃ i, n = 2 ^ i := by
  have power : (n : ℚ) = 2 ^ (j - d) := by
    rw [zpow_sub₀ two_ne_zero, ← h, mul_div_cancel_right₀ _ (quantum_pos d).ne']
  rcases le_or_gt 0 (j - d) with nonneg | neg
  · obtain ⟨i, hi⟩ := Int.eq_ofNat_of_zero_le nonneg
    rw [hi, zpow_natCast] at power
    exact ⟨i, by exact_mod_cast power⟩
  · have small : (n : ℚ) < 1 := by
      rw [power, ← zpow_zero 2]
      exact zpow_lt_zpow_right₀ one_lt_two neg
    have positive : (0 : ℚ) < n := power ▸ quantum_pos _
    exact absurd (Nat.cast_lt_one.mp small) (Nat.cast_pos.mp positive).ne'

/-! ## Operations whose exact result needs no rounding -/

section
variable (hF : 0 < F.expBits)
include hF

theorem rounded_denotes (nan : REAL F) {neg : Bool} {m : Nat} {e : ℤ} {x : ℚ} (hx : signed neg (m * 2 ^ e) = x)
    (h : Representable F x) : Denotes (rounded nan (.fin neg m e)) x := by
  obtain ⟨c, finite, code⟩ := h
  have nonneg : (0 : ℚ) ≤ m * 2 ^ e := mul_nonneg (Nat.cast_nonneg _) (quantum_pos e).le
  rw [← hx, abs_signed _ nonneg] at code
  rw [rounded, roundCode_eq_of_eq hF code.symm finite.le, ← hx, ← code]
  exact denotes_encoded neg finite

section
variable {a b : REAL F} {x y : ℚ} (ha : Denotes a x) (hb : Denotes b y)
include ha

theorem ffloor_denotes (positive : 0 < x) (h : Representable F ⌊x⌋) : Denotes (ffloor a) ⌊x⌋ := by
  obtain ⟨m, e, da, rfl⟩ := ha.datum_of_pos positive
  obtain ⟨k, q, exact, value⟩ := exactFloor_value m e
  rw [ffloor, roundReal, da, exact]
  exact rounded_denotes hF _ value h

/-- The quotient by a power of two is exact (R12). -/
theorem fdiv_denotes_two_pow {j : ℤ} (hb : Denotes b (2 ^ j)) (h : Representable F (x / 2 ^ j)) :
    Denotes (fdiv a b) (x / 2 ^ j) := by
  obtain ⟨s, m, e, da, rfl⟩ := ha.datum
  obtain ⟨n, d, db, power⟩ := hb.datum_of_pos (quantum_pos j)
  obtain ⟨i, rfl⟩ := exists_eq_two_pow power
  have positive := Nat.two_pow_pos i
  have exact := scaledQuotient_value_of_dvd (fracBits := F.fracBits) (m := m) positive
    ((pow_dvd_pow 2 (by rw [Nat.log2_two_pow]; omega)).mul_left m)
  rw [fdiv, roundReal, da, db, exactDiv, if_neg positive.ne']
  refine rounded_denotes hF _ ?_ h
  rw [← power, ← signed_false (_ * 2 ^ d), ← signed_div, zpow_add₀ two_ne_zero, zpow_sub₀ two_ne_zero,
    mul_comm (_ / _), ← mul_assoc, exact, div_mul_div_comm]

include hb

theorem fadd_denotes (h : Representable F (x + y)) : Denotes (fadd a b) (x + y) := by
  obtain ⟨s, m, e, da, rfl⟩ := ha.datum
  obtain ⟨t, n, d, db, rfl⟩ := hb.datum
  obtain ⟨neg, k, q, exact, value⟩ := exactAdd_value s t m n e d
  rw [fadd, roundReal, da, db, exact]
  exact rounded_denotes hF _ value h

theorem fsub_denotes (h : Representable F (x - y)) : Denotes (fsub a b) (x - y) := by
  obtain ⟨s, m, e, da, rfl⟩ := ha.datum
  obtain ⟨t, n, d, db, rfl⟩ := hb.datum
  obtain ⟨neg, k, q, exact, value⟩ := exactAdd_value s (!t) m n e d
  rw [signed_not, ← sub_eq_add_neg] at value
  rw [fsub, roundReal, da, db, exactNeg, exact]
  exact rounded_denotes hF _ value h

theorem fmul_denotes (h : Representable F (x * y)) : Denotes (fmul a b) (x * y) := by
  obtain ⟨s, m, e, da, rfl⟩ := ha.datum
  obtain ⟨t, n, d, db, rfl⟩ := hb.datum
  obtain ⟨neg, k, q, exact, value⟩ := exactMul_value s t m n e d
  rw [fmul, roundReal, da, db, exact]
  exact rounded_denotes hF _ value h

end
end

/-! ## Numbers that a format has -/

/-- `x` is a significand of the format at one of its quanta. It may be above the format's finite range. -/
def Fits (F : Format) (x : ℚ) : Prop :=
  ∃ (m : Nat) (e : ℤ), m < 2 ^ (F.fracBits + 1) ∧ minQuantum F ≤ e ∧ x = m * 2 ^ e

theorem Denotes.fits {a : REAL F} {x : ℚ} (h : Denotes a x) (nonneg : 0 ≤ x) : Fits F x := by
  obtain ⟨m, e, -, eq, bound, quantum⟩ := datum_of_finite h.finite
  refine ⟨m, e, bound, quantum, ?_⟩
  rw [eq, ← abs_of_nonneg nonneg, ← h.value, Machine.value, abs_signed _ (codeValue_nonneg _)]

/-- A number that fits is representable up to a representable bound. -/
theorem Fits.representable (hF : 0 < F.expBits) {x y : ℚ} (h : Fits F x) (le : x ≤ y) (hy : Representable F y) :
    Representable F x := by
  obtain ⟨m, e, bound, quantum, rfl⟩ := h
  obtain ⟨c, hc⟩ := exists_codeValue_eq hF bound quantum
  obtain ⟨d, finite, hd⟩ := hy
  rw [← hc] at le ⊢
  refine ⟨c, lt_of_le_of_lt ?_ finite, (abs_of_nonneg (codeValue_nonneg c)).symm⟩
  rw [← codeValue_strictMono.le_iff_le (f := codeValue F), hd]
  exact le.trans (le_abs_self y)

/-- The code of a power of two. -/
theorem codeValue_two_pow (k : Nat) :
    codeValue F ((k + 1) * 2 ^ F.fracBits) = 2 ^ (k + F.fracBits + minQuantum F) := by
  rw [Nat.add_mul, Nat.one_mul, codeValue_add (.inl le_rfl) (Nat.pow_le_pow_right two_pos (Nat.le_succ _)),
    Nat.cast_pow, Nat.cast_ofNat, ← zpow_natCast, ← zpow_add₀ two_ne_zero]
  congr 1
  ring

theorem representable_two_pow {j : ℤ} (low : minQuantum F + F.fracBits ≤ j)
    (high : (j - F.fracBits - minQuantum F).toNat + 1 < 2 ^ F.expBits - 1) : Representable F (2 ^ j) := by
  refine ⟨_, Nat.mul_lt_mul_of_pos_right high (Nat.two_pow_pos _), ?_⟩
  rw [codeValue_two_pow, abs_of_pos (quantum_pos j)]
  congr 1
  omega

theorem Fits.mul_two_pow {x : ℚ} (h : Fits F x) (k : Nat) : Fits F (x * 2 ^ k) := by
  obtain ⟨m, e, bound, quantum, rfl⟩ := h
  exact ⟨m, e + k, bound, by omega, by rw [zpow_add₀ two_ne_zero, zpow_natCast, mul_assoc]⟩

/-- A quotient of at least 1 by a power of two keeps its significand. -/
theorem Fits.div_two_pow (range : minQuantum F + F.fracBits ≤ 0) {x : ℚ} (h : Fits F x) {k : Nat} (ge : 2 ^ k ≤ x) :
    Fits F (x / 2 ^ k) := by
  obtain ⟨m, e, bound, quantum, rfl⟩ := h
  have top : (m : ℚ) * 2 ^ e < 2 ^ (F.fracBits + 1) * 2 ^ e :=
    mul_lt_mul_of_pos_right (by exact_mod_cast bound) (quantum_pos e)
  have := ge.trans_lt top
  rw [← zpow_natCast, ← zpow_natCast, ← zpow_add₀ two_ne_zero, zpow_lt_zpow_iff_right₀ one_lt_two] at this
  push_cast at this
  exact ⟨m, e - k, bound, by omega, by rw [zpow_sub₀ two_ne_zero, zpow_natCast, mul_div_assoc]⟩

/-- The whole part and the rest of a number that fits do so too. -/
theorem Fits.floor_fract (range : minQuantum F ≤ 0) {x : ℚ} (h : Fits F x) :
    Fits F ⌊x⌋ ∧ Fits F (Int.fract x) := by
  obtain ⟨m, e, bound, quantum, rfl⟩ := h
  rcases le_or_gt 0 e with whole | below
  · obtain ⟨n, rfl⟩ := Int.eq_ofNat_of_zero_le whole
    have integral : (m : ℚ) * 2 ^ (n : ℤ) = (m * 2 ^ n : ℤ) := by push_cast; rw [zpow_natCast]
    have fits : Fits F ((m : ℚ) * 2 ^ (n : ℤ)) := ⟨m, n, bound, quantum, rfl⟩
    rw [integral] at fits ⊢
    rw [Int.floor_intCast, Int.fract_intCast]
    exact ⟨fits, 0, 0, Nat.two_pow_pos _, range, by simp⟩
  · obtain ⟨n, rfl⟩ : ∃ n : Nat, e = -n := ⟨(-e).toNat, by omega⟩
    have quotient : (m : ℚ) * 2 ^ (-n : ℤ) = m / (2 ^ n : Nat) := by
      rw [zpow_neg, zpow_natCast, ← div_eq_mul_inv, Nat.cast_pow, Nat.cast_ofNat]
    constructor
    · refine ⟨m / 2 ^ n, 0, (Nat.div_le_self ..).trans_lt bound, range, ?_⟩
      rw [quotient, Rat.floor_natCast_div_natCast, zpow_zero, mul_one, ← Int.natCast_ediv, Int.cast_natCast]
    · refine ⟨m % 2 ^ n, -n, (Nat.mod_le ..).trans_lt bound, quantum, ?_⟩
      rw [quotient, Int.fract_div_natCast_eq_div_natCast_mod, zpow_neg, zpow_natCast, ← div_eq_mul_inv, Nat.cast_pow,
        Nat.cast_ofNat]

theorem fnat_denotes (hF : 0 < F.expBits) {n : Nat} (h : Representable F n) : Denotes (fnat n : REAL F) n := by
  rw [fnat]
  exact rounded_denotes hF (neg := false) 0#F.width (by rw [signed_false, zpow_zero, mul_one]) h

/-- The integers that a significand holds. -/
theorem representable_int (hF : 0 < F.expBits) (range : minQuantum F ≤ 0)
    (top : Representable F (2 ^ ((F.fracBits + 1 : Nat) : ℤ))) {z : ℤ} (h : z.natAbs < 2 ^ (F.fracBits + 1)) :
    Representable F z := by
  have fits : Fits F z.natAbs := ⟨z.natAbs, 0, h, range, by rw [zpow_zero, mul_one]⟩
  have bound : (z.natAbs : ℚ) ≤ 2 ^ ((F.fracBits + 1 : Nat) : ℤ) := by
    rw [zpow_natCast]
    exact_mod_cast h.le
  obtain ⟨c, finite, code⟩ := fits.representable hF bound top
  exact ⟨c, finite, by rw [code, Nat.cast_natAbs, Int.cast_abs, abs_abs]⟩

theorem representable_int_binary32 {z : ℤ} (h : z.natAbs < 2 ^ 24) : Representable binary32 z :=
  representable_int (by decide) (by decide) (representable_two_pow (by decide) (by decide)) h

theorem fnat_denotes_binary32 {n : Nat} (h : n < 2 ^ 24) : Denotes (fnat n : F32) n :=
  fnat_denotes (by decide) (by exact_mod_cast representable_int_binary32 (z := n) h)

theorem fnat_denotes_binary64 {n : Nat} (h : n < 2 ^ 53) : Denotes (fnat n : F64) n :=
  fnat_denotes (by decide) (by
    exact_mod_cast representable_int (F := binary64) (z := n) (by decide) (by decide)
      (representable_two_pow (by decide) (by decide)) h)

/-! ## Zeros -/

theorem Denotes.negative_of_pos {a : REAL F} {x : ℚ} (h : Denotes a x) (positive : 0 < x) :
    negative a = false ∧ magCode a ≠ 0 := by
  have own := codeValue_nonneg (F := F) (magCode a)
  have eq : signed (negative a) (codeValue F (magCode a)) = x := h.value
  constructor
  · by_contra sign
    rw [Bool.not_eq_false] at sign
    rw [sign, signed_true] at eq
    linarith
  · intro zero
    rw [zero, codeValue_zero] at eq
    exact positive.ne (by rw [← eq]; simp [signed])

theorem fnat_zero_eq_encoded : (fnat 0 : REAL F) = encoded F false 0 := by
  simp [fnat, roundCode]

@[simp] theorem magCode_encoded_zero (neg : Bool) : magCode (encoded F neg 0) = 0 := magCode_encoded neg (Nat.zero_le _)

@[simp] theorem negative_encoded_zero (neg : Bool) : negative (encoded F neg 0) = neg :=
  negative_encoded neg (Nat.zero_le _)

theorem rounded_zero (nan : REAL F) (neg : Bool) (e : ℤ) : rounded nan (.fin neg 0 e) = encoded F neg 0 := by
  simp [rounded, roundCode]

section
variable (hF : 0 < F.expBits) {a b : REAL F}
include hF

theorem infCode_pos : 0 < infCode F :=
  Nat.mul_pos (Nat.sub_pos_of_lt (Nat.one_lt_two_pow hF.ne')) (Nat.two_pow_pos _)

theorem finite_of_zero (h : magCode a = 0) : finite a = true := finite_iff.mpr (h ▸ infCode_pos hF)

theorem datum_of_zero (h : magCode a = 0) : ∃ e, datum a = .fin (negative a) 0 e := by
  obtain ⟨m, e, data, eq, -⟩ := datum_of_finite (finite_of_zero hF h)
  rw [h, codeValue_zero, mul_eq_zero, or_iff_left (quantum_pos e).ne', Nat.cast_eq_zero] at eq
  exact ⟨e, eq ▸ data⟩

theorem fmul_zero_right (ha : finite a = true) (hb : magCode b = 0) :
    fmul a b = encoded F (negative a != negative b) 0 := by
  obtain ⟨m, e, da, -⟩ := datum_of_finite ha
  obtain ⟨d, db⟩ := datum_of_zero hF hb
  rw [fmul, roundReal, da, db, exactMul, Nat.mul_zero, rounded_zero]

theorem fdiv_zero_left (ha : magCode a = 0) (hb : finite b = true) (nonzero : magCode b ≠ 0) :
    fdiv a b = encoded F (negative a != negative b) 0 := by
  obtain ⟨e, da⟩ := datum_of_zero hF ha
  obtain ⟨n, d, db, eq, -⟩ := datum_of_finite hb
  have positive : n ≠ 0 := by
    rintro rfl
    rw [Nat.cast_zero, zero_mul, ← codeValue_zero (F := F)] at eq
    exact nonzero (codeValue_strictMono.injective eq.symm)
  rw [fdiv, roundReal, da, db, exactDiv, if_neg positive]
  simp [scaledQuotient, rounded_zero]

theorem fadd_zero_zero (ha : magCode a = 0) (hb : magCode b = 0) :
    fadd a b = encoded F (negative a && negative b) 0 := by
  obtain ⟨e, da⟩ := datum_of_zero hF ha
  obtain ⟨d, db⟩ := datum_of_zero hF hb
  rw [fadd, roundReal, da, db]
  simp [exactAdd, alignedInt, rounded_zero]

end

theorem fabs_of_finite {a : REAL F} (h : finite a = true) : fabs a = encoded F false (magCode a) := by
  rw [fabs, isNaN_eq_false_of_finite h]
  rfl

/-! ## Quotients of at most 1 -/

/-- A power of two that bounds a positive quotient is a multiple of the quantum of `scaledQuotient`. -/
theorem exists_scaled_two_pow (fracBits : Nat) {m n : Nat} {j : ℤ} (positive : 0 < m) (h : (m : ℚ) ≤ n * 2 ^ j) :
    ∃ t : Nat, (t : ℚ) = 2 ^ j * 2 ^ (fracBits + 3 + Nat.log2 n) := by
  have low : (1 : ℚ) ≤ m := by exact_mod_cast positive
  have high : (n : ℚ) < 2 ^ (Nat.log2 n + 1) := by exact_mod_cast Nat.lt_log2_self
  have range : (2 : ℚ) ^ (0 : ℤ) < 2 ^ ((Nat.log2 n + 1 : Nat) + j) := by
    rw [zpow_zero, zpow_add₀ two_ne_zero, zpow_natCast]
    exact (low.trans h).trans_lt (mul_lt_mul_of_pos_right high (quantum_pos j))
  rw [zpow_lt_zpow_iff_right₀ one_lt_two] at range
  refine ⟨2 ^ (j + (fracBits + 3 + Nat.log2 n : Nat)).toNat, ?_⟩
  rw [Nat.cast_pow, Nat.cast_ofNat, ← zpow_natCast, Int.toNat_of_nonneg (by omega), zpow_add₀ two_ne_zero, zpow_natCast]

/-- A quotient of at most a power of two stays so when its last bit is set for what is cut off. -/
theorem scaledQuotient_value_le (fracBits : Nat) {m n : Nat} {j : ℤ} (h : (m : ℚ) ≤ n * 2 ^ j) :
    ((scaledQuotient fracBits m n).1 : ℚ) * 2 ^ (scaledQuotient fracBits m n).2 ≤ 2 ^ j := by
  rcases Nat.eq_zero_or_pos m with rfl | positive
  · simp [scaledQuotient, (quantum_pos j).le]
  · obtain ⟨t, ht⟩ := exists_scaled_two_pow fracBits positive h
    have scaled : m * 2 ^ (fracBits + 3 + Nat.log2 n) ≤ n * t := by
      have := mul_le_mul_of_nonneg_right h (pow_nonneg zero_le_two (fracBits + 3 + Nat.log2 n) : (0 : ℚ) ≤ _)
      rw [mul_assoc, ← ht] at this
      exact_mod_cast this
    have bound : ((scaledQuotient fracBits m n).1 : ℚ) ≤ 2 * t := by exact_mod_cast scaledQuotient_fst_le scaled
    refine (mul_le_mul_of_nonneg_right bound (quantum_pos _).le).trans_eq ?_
    rw [ht, show (scaledQuotient fracBits m n).2 = -(fracBits + 3 + Nat.log2 n + 1 : Nat) from rfl, zpow_neg,
      zpow_natCast, pow_succ]
    field_simp

/-- A quotient that is a power of two is exact. -/
theorem scaledQuotient_value_eq (fracBits : Nat) {m n : Nat} {j : ℤ} (positive : 0 < n) (h : (m : ℚ) = n * 2 ^ j) :
    ((scaledQuotient fracBits m n).1 : ℚ) * 2 ^ (scaledQuotient fracBits m n).2 = 2 ^ j := by
  have nonzero : (n : ℚ) ≠ 0 := by exact_mod_cast positive.ne'
  have numerator : 0 < m := by
    have : (0 : ℚ) < m := h ▸ mul_pos (by exact_mod_cast positive) (quantum_pos j)
    exact_mod_cast this
  obtain ⟨t, ht⟩ := exists_scaled_two_pow fracBits numerator h.le
  rw [scaledQuotient_value_of_dvd positive, h, mul_div_cancel_left₀ _ nonzero]
  refine ⟨t, ?_⟩
  have : (m : ℚ) * 2 ^ (fracBits + 3 + Nat.log2 n) = n * t := by rw [h, ht, mul_assoc]
  exact_mod_cast this

/-- The code of 1. -/
def oneCode (F : Format) : Nat := ((-(minQuantum F + F.fracBits)).toNat + 1) * 2 ^ F.fracBits

theorem codeValue_oneCode (range : minQuantum F + F.fracBits ≤ 0) : codeValue F (oneCode F) = 1 := by
  rw [oneCode, codeValue_two_pow, ← zpow_zero (2 : ℚ)]
  congr 1
  omega

section
variable (hF : 0 < F.expBits) (range : minQuantum F + F.fracBits ≤ 0) (inside : oneCode F < infCode F)
include hF range

/-- What is at most 1 rounds to at most 1. -/
theorem roundCode_le_oneCode {m : Nat} {e : ℤ} (h : (m : ℚ) * 2 ^ e ≤ 1) : roundCode F m e ≤ oneCode F :=
  roundCode_le_of_le hF (h.trans_eq (codeValue_oneCode range).symm)

include inside

theorem roundCode_eq_oneCode {m : Nat} {e : ℤ} (h : (m : ℚ) * 2 ^ e = 1) : roundCode F m e = oneCode F :=
  roundCode_eq_of_eq hF (h.trans (codeValue_oneCode range).symm) inside.le

/-- A number by one of at least its magnitude: at most 1 in magnitude, and 1 where the two have the same. -/
theorem fdiv_eq_encoded_of_magCode_le {a b : REAL F} (ha : finite a = true) (hb : finite b = true)
    (nonzero : magCode b ≠ 0) (le : magCode a ≤ magCode b) : ∃ neg c, fdiv a b = encoded F neg c ∧ c ≤ oneCode F ∧
      (magCode a = magCode b → c = oneCode F) := by
  obtain ⟨m, e, da, va, -⟩ := datum_of_finite ha
  obtain ⟨n, d, db, vb, -⟩ := datum_of_finite hb
  have value_pos : 0 < codeValue F (magCode b) := by
    rw [← codeValue_zero (F := F), codeValue_lt_iff]
    exact Nat.pos_of_ne_zero nonzero
  have positive : 0 < n := by
    rw [← vb] at value_pos
    exact Nat.cast_pos.mp (pos_of_mul_pos_left value_pos (quantum_pos d).le)
  have scale : (n : ℚ) * 2 ^ (d - e) * 2 ^ e = codeValue F (magCode b) := by
    rw [mul_assoc, ← zpow_add₀ two_ne_zero, sub_add_cancel, vb]
  have unscale (x : ℚ) (y : ℤ) : x * 2 ^ (e - d + y) = x * 2 ^ y / 2 ^ (d - e) := by
    rw [eq_div_iff (quantum_pos _).ne', mul_assoc, ← zpow_add₀ two_ne_zero]
    congr 2
    omega
  rw [fdiv, roundReal, da, db, exactDiv, if_neg positive.ne']
  refine ⟨_, _, rfl, roundCode_le_oneCode hF range ?_, fun same => roundCode_eq_oneCode hF range inside ?_⟩
  · rw [unscale, div_le_one (quantum_pos _)]
    refine scaledQuotient_value_le _ (le_of_mul_le_mul_right ?_ (quantum_pos e))
    rw [va, scale]
    exact codeValue_strictMono.monotone le
  · rw [unscale, div_eq_one_iff_eq (quantum_pos _).ne']
    refine scaledQuotient_value_eq _ positive (mul_right_cancel₀ (quantum_pos e).ne' ?_)
    rw [va, scale, same]

end

end Sys2Proof.Machine
end

section
/-! PROOFS of the family 42_oscillator.md: the glide (R212, R216, R217), the phase (R214), the wavetable (R220, R221)
and the start of a note (R211, R391). -/

namespace Sys2Proof.Machine

/-! ## The glide (R212, R216, R217) -/

/-- The model's increment is R210's expression. -/
theorem incOf_eq_increment (c : EngineConfig binary32) (p : F32) : incOf c p = Claims.increment c p := rfl

theorem oscUpdate_of_ended {o : Oscillator binary32} (ended : o.glideLeft = 0) : oscUpdate o = o := if_pos ended

/-- A tick writes `glideLeft` and `inc` only (R216, R217). -/
theorem oscUpdate_frame (o : Oscillator binary32) :
    oscUpdate o = { o with glideLeft := (oscUpdate o).glideLeft, inc := (oscUpdate o).inc } := by
  by_cases ended : o.glideLeft = 0
  · rw [oscUpdate_of_ended ended]
  · simp only [oscUpdate, if_neg ended]

/-- Ticks write `glideLeft` and `inc` only, and count `glideLeft` down. -/
theorem oscUpdate_iterate_frame (o : Oscillator binary32) (k : Nat) :
    oscUpdate^[k] o = { o with glideLeft := o.glideLeft - k, inc := (oscUpdate^[k] o).inc } := by
  induction k with
  | zero => rfl
  | succ k ih =>
    rw [Function.iterate_succ_apply', oscUpdate_frame, oscUpdate_glideLeft, ih]
    rfl

theorem oscUpdate_inc_of_last {o : Oscillator binary32} (last : o.glideLeft = 1) :
    (oscUpdate o).inc = o.glideTarget := by
  simp [oscUpdate, last]

theorem oscUpdate_inc_of_more {o : Oscillator binary32} (more : 1 < o.glideLeft) :
    (oscUpdate o).inc = fadd o.inc o.glideDelta := by
  simp only [oscUpdate, if_neg (show o.glideLeft ≠ 0 by omega), if_neg (show o.glideLeft ≠ 1 by omega)]

/-- Settles O40: the ticks of a glide keep what they add and where they end (`oscUpdate_iterate_frame`). -/
theorem slideEndsOnItsTarget : Obligations.SlideEndsOnItsTarget := by
  intro c w p o nonempty target after
  have frame (k : Nat) : after k = { oscSlide c w p o with glideLeft := c.glideTicks - k, inc := (after k).inc } :=
    oscUpdate_iterate_frame (oscSlide c w p o) k
  have left (k : Nat) : (after k).glideLeft = c.glideTicks - k := congrArg Oscillator.glideLeft (frame k)
  have succ (k : Nat) : after (k + 1) = oscUpdate (after k) := Function.iterate_succ_apply' ..
  refine ⟨rfl, fun k => (congrArg Oscillator.phase (frame k) :), fun k _ => left k, fun k more => ?_, ?_, ?_⟩
  · rw [succ, oscUpdate_inc_of_more (by rw [left]; omega), frame k]
    rfl
  · obtain ⟨m, hm⟩ : ∃ m, c.glideTicks = m + 1 := Nat.exists_eq_add_of_le' nonempty
    rw [hm, succ, oscUpdate_inc_of_last (by rw [left]; omega), frame m]
    exact incOf_eq_increment c p
  · rw [succ, oscUpdate_of_ended (by rw [left, Nat.sub_self])]

/-! ## The phase (R214) -/

theorem fzero_denotes : Denotes (fzero : F32) 0 :=
  ⟨by decide, by simp [value, magCode, fzero, codeValue_zero, signed]⟩

theorem ftableLen_denotes {c : EngineConfig binary32} {k : Nat} (len : c.tableLen = 2 ^ k) (hk : k < 32) :
    Representable binary32 (2 ^ k) ∧ Denotes (ftableLen c) (2 ^ k) := by
  have power : Representable binary32 (2 ^ (k : ℤ)) :=
    representable_two_pow (by simp [minQuantum]) (by simp [minQuantum]; omega)
  rw [zpow_natCast] at power
  rw [ftableLen, len, ← Nat.cast_ofNat, ← Nat.cast_pow]
  exact ⟨by exact_mod_cast power, fnat_denotes (by decide) (by exact_mod_cast power)⟩

/-- A sum of two non-negative numbers, one of them below 2^32, does not overflow. -/
theorem exists_denotes_fadd_of_nonneg {a b : F32} {x y : ℚ} (ha : Denotes a x) (hb : Denotes b y)
    (hx : 0 ≤ x) (small : x < 2 ^ 32) (hy : 0 ≤ y) : ∃ z, 0 ≤ z ∧ Denotes (fadd a b) z := by
  obtain ⟨c, finite, code⟩ := hb.representable
  obtain ⟨s, m, e, da, rfl⟩ := ha.datum
  obtain ⟨t, n, d, db, rfl⟩ := hb.datum
  obtain ⟨neg, k, q, exact, sum⟩ := exactAdd_value s t m n e d
  have top : codeValue binary32 (infCode binary32 - 1 + 1) = codeValue binary32 (infCode binary32 - 1) + 2 ^ 104 := by
    rw [codeValue_succ, show (infCode binary32 - 1) / 2 ^ 23 - 1 = 253 by decide]
    norm_num [minQuantum]
  have bound := codeValue_strictMono (F := binary32).monotone (show c ≤ infCode binary32 - 1 by omega)
  rw [abs_of_nonneg hy] at code
  have nonneg : (0 : ℚ) ≤ k * 2 ^ q := mul_nonneg (Nat.cast_nonneg _) (quantum_pos q).le
  have size : (k : ℚ) * 2 ^ q = signed s (m * 2 ^ e) + signed t (n * 2 ^ d) := by
    rw [← abs_signed neg nonneg, sum, abs_of_nonneg (add_nonneg hx hy)]
  have inside : roundCode binary32 k q ≤ infCode binary32 - 1 :=
    roundCode_le_of_lt_midpoint (by decide) (by rw [top, size]; linarith)
  rw [fadd, roundReal, da, db, exact, rounded]
  refine ⟨_, ?_, denotes_encoded neg (inside.trans_lt (by decide))⟩
  cases neg
  · exact codeValue_nonneg _
  · rw [signed_true] at sum
    have zero : (k : ℚ) * 2 ^ q ≤ codeValue binary32 0 := by rw [codeValue_zero]; linarith
    rw [Nat.le_zero.mp (roundCode_le_of_le (by decide) zero), codeValue_zero, signed_true, neg_zero]

/-- What whole cycles leave of a phase beyond the table: none of the operations rounds (R214). -/
theorem cycleRest_denotes {L a : F32} {k : Nat} {x : ℚ} (power : Representable binary32 (2 ^ k))
    (hL : Denotes L (2 ^ k)) (ha : Denotes a x) (above : 2 ^ k ≤ x) :
    Denotes (fsub a (fmul L (ffloor (fdiv a L)))) (Int.fract (x / 2 ^ k) * 2 ^ k) := by
  have hF : 0 < binary32.expBits := by decide
  have positive : (0 : ℚ) < 2 ^ k := pow_pos two_pos k
  have nonneg := positive.le.trans above
  have parts : x - 2 ^ k * ⌊x / 2 ^ k⌋ = Int.fract (x / 2 ^ k) * 2 ^ k := by
    rw [Int.fract, sub_mul, div_mul_cancel₀ _ positive.ne', mul_comm]
  have rest_nonneg : 0 ≤ Int.fract (x / 2 ^ k) * 2 ^ k := mul_nonneg (Int.fract_nonneg _) positive.le
  have rest_le : Int.fract (x / 2 ^ k) * 2 ^ k ≤ 2 ^ k := mul_le_of_le_one_left positive.le (Int.fract_lt_one _).le
  have quotient_le : x / 2 ^ k ≤ x := div_le_self nonneg (one_le_pow₀ one_le_two)
  have quotientFits := (ha.fits nonneg).div_two_pow (by decide) above
  obtain ⟨floorFits, fractFits⟩ := quotientFits.floor_fract (by decide)
  have productFits := floorFits.mul_two_pow k
  rw [mul_comm] at productFits
  have quotient : Denotes (fdiv a L) (x / 2 ^ k) := by
    rw [← zpow_natCast] at hL ⊢
    exact fdiv_denotes_two_pow hF ha hL
      (by rw [zpow_natCast]; exact quotientFits.representable hF quotient_le ha.representable)
  have floor := ffloor_denotes hF quotient (div_pos (positive.trans_le above) positive)
    (floorFits.representable hF ((Int.floor_le _).trans quotient_le) ha.representable)
  have product := fmul_denotes hF hL floor (productFits.representable hF (by linarith) ha.representable)
  rw [← parts]
  exact fsub_denotes hF ha product (by rw [parts]; exact (fractFits.mul_two_pow k).representable hF rest_le power)

/-- The wrap of a phase lies inside the table, and neither rounding guard is needed (R214). -/
theorem wrapPhase_denotes {c : EngineConfig binary32} {k : Nat} (len : c.tableLen = 2 ^ k) (hk : k < 32) {a : F32}
    {x : ℚ} (ha : Denotes a x) (nonneg : 0 ≤ x) : ∃ y, 0 ≤ y ∧ y < 2 ^ k ∧ Denotes (wrapPhase c a) y := by
  obtain ⟨power, hL⟩ := ftableLen_denotes len hk
  rw [wrapPhase]
  rcases lt_or_ge x (2 ^ k) with below | above
  · rw [if_neg (by rw [fle_iff_of_denotes hL ha]; exact not_le_of_gt below)]
    exact ⟨x, nonneg, below, ha⟩
  · have rest := cycleRest_denotes power hL ha above
    have positive : (0 : ℚ) < 2 ^ k := pow_pos two_pos k
    have rest_nonneg : 0 ≤ Int.fract (x / 2 ^ k) * 2 ^ k := mul_nonneg (Int.fract_nonneg _) positive.le
    have rest_lt : Int.fract (x / 2 ^ k) * 2 ^ k < 2 ^ k := mul_lt_of_lt_one_left positive (Int.fract_lt_one _)
    rw [if_pos ((fle_iff_of_denotes hL ha).mpr above)]
    simp only [flt_iff_of_denotes rest fzero_denotes, if_neg rest_nonneg.not_gt, fle_iff_of_denotes hL rest,
      if_neg rest_lt.not_ge]
    exact ⟨_, rest_nonneg, rest_lt, rest⟩

/-- Settles O41: the sum does not overflow, and the wrap of a finite one is exact. -/
theorem phaseStaysInsideTheTable : Obligations.PhaseStaysInsideTheTable := by
  refine fun c o => ⟨advancePhase_eq_advanced c o, ?_⟩
  intro k len hk phaseFinite phaseNonneg phaseBelow incFinite incNonneg
  obtain ⟨-, hL⟩ := ftableLen_denotes len hk
  have phase : Denotes o.phase (value o.phase) := ⟨phaseFinite, rfl⟩
  have inc : Denotes o.inc (value o.inc) := ⟨incFinite, rfl⟩
  rw [fle_iff_of_denotes fzero_denotes phase] at phaseNonneg
  rw [fle_iff_of_denotes fzero_denotes inc] at incNonneg
  rw [flt_iff_of_denotes phase hL] at phaseBelow
  obtain ⟨sum, sum_nonneg, hsum⟩ := exists_denotes_fadd_of_nonneg phase inc phaseNonneg
    (phaseBelow.trans (pow_lt_pow_right₀ one_lt_two hk)) incNonneg
  obtain ⟨y, y_nonneg, y_lt, hy⟩ := wrapPhase_denotes len hk hsum sum_nonneg
  exact ⟨(fle_iff_of_denotes fzero_denotes hy).mpr y_nonneg, (flt_iff_of_denotes hy hL).mpr y_lt⟩

/-! ## The segments of the wavetable (R220, R221) -/

theorem wavetable_eq_tableEntry (c : EngineConfig binary32) (w : Fin Config.numWaves) (n : Fin Config.numNotes)
    (i : Nat) : wavetable c w n i = tableEntry waveMath c w n i := by
  rw [wavetable]

/-- The harmonics of a waveform up to `K`: all of them for the saw, the odd ones for the square (R220). -/
def harmonics (w K : Nat) : List Nat := (List.range' 1 K).filter fun k => w != 1 || k % 2 == 1

theorem harmonics_succ (w K : Nat) :
    harmonics w (K + 1) = if w = 1 ∧ (K + 1) % 2 = 0 then harmonics w K else harmonics w K ++ [K + 1] := by
  rw [harmonics, List.range'_1_concat, List.filter_append, ← harmonics, Nat.add_comm 1 K, List.filter_singleton]
  by_cases skipped : w = 1 ∧ (K + 1) % 2 = 0
  · simp [skipped]
  · have kept : (w != 1 || (K + 1) % 2 == 1) = true := by
      simp only [Bool.or_eq_true, bne_iff_ne, beq_iff_eq]
      omega
    rw [if_neg skipped, kept, cond_true]

/-- The model's sum is that of the terms of the waveform's harmonics, in rising order from 0. -/
theorem waveSum_eq_foldl (M : WaveMath) {F : Format} (c : EngineConfig F) (w H i K : Nat) :
    waveSum M c w H i K = ((harmonics w K).map fun k => waveTerm M c H k i).foldl fadd (fnat 0) := by
  induction K with
  | zero => rfl
  | succ K ih =>
    rw [waveSum, harmonics_succ]
    split
    · exact ih
    · rw [List.map_append, List.foldl_append, ← ih]
      rfl

/-! ## The harmonic limit (R220, R221) -/

section
open Sys2Proof.Claims (below)

/-- A harmonic below the rounded-up quotient is below the quotient. -/
theorem below_of_lt_ceilUpTo {cap h : Nat} {a : F64} (number : datum a ≠ .nan) (lt : h < ceilUpTo cap a) :
    below h (datum a) := by
  rw [ceilUpTo] at lt
  cases q : datum a with
  | nan => exact absurd q number
  | inf neg =>
    cases neg
    · rfl
    · simp [q] at lt
  | fin neg m e =>
    cases neg
    · simp only [q, Bool.false_eq_true, if_false] at lt
      refine ⟨rfl, ?_⟩
      split at lt
      · rw [if_pos ‹_›]
        omega
      · rw [if_neg ‹_›]
        have pos := Nat.two_pow_pos (-e).toNat
        have le := (Nat.le_div_iff_mul_le pos).mp (lt_min_iff.mp lt).2
        rw [Nat.succ_mul] at le
        omega
    · simp [q] at lt

/-- A harmonic below both the cap and the quotient is below the rounded-up quotient. -/
theorem lt_ceilUpTo_of_below {cap h : Nat} {a : F64} (inside : h < cap) (lt : below h (datum a)) :
    h < ceilUpTo cap a := by
  rw [ceilUpTo]
  cases q : datum a with
  | nan => simp [q, below] at lt
  | inf neg =>
    obtain rfl : neg = false := by simpa [q, below] using lt
    exact inside
  | fin neg m e =>
    rw [q] at lt
    obtain ⟨rfl, lt⟩ := lt
    simp only [Bool.false_eq_true, if_false]
    split at lt
    · rw [if_pos ‹_›]
      exact lt_min inside lt
    · rw [if_neg ‹_›]
      refine lt_min inside ((Nat.le_div_iff_mul_le (Nat.two_pow_pos _)).mpr ?_)
      rw [Nat.succ_mul]
      omega

/-- The limit is the highest harmonic below L/2 and below the quotient, and at least 1. -/
theorem harmonicLimit_bounds (M : WaveMath) (c : EngineConfig binary32) (n : Nat) :
    let H := harmonicLimit M c n
    let q := datum (fdiv (fnat c.sampleRate) (fmul (fnat 2) (waveFreq M n)))
    1 ≤ H ∧ (1 < H ∨ 4 ≤ c.tableLen → H < c.tableLen / 2) ∧ (q ≠ .nan → 1 < H ∨ below 1 q → below H q) ∧
    (q ≠ .nan → H + 1 < c.tableLen / 2 → ¬ below (H + 1) q) := by
  intro H q
  have limit : H = max 1 (min (c.tableLen / 2 - 1)
      (ceilUpTo (c.tableLen / 2) (fdiv (fnat c.sampleRate) (fmul (fnat 2) (waveFreq M n))) - 1)) := rfl
  refine ⟨by omega, by omega, fun number some => ?_, fun _ inside lt => ?_⟩
  · by_cases one : H = 1
    · rw [one] at some ⊢
      exact some.resolve_left (lt_irrefl 1)
    · exact below_of_lt_ceilUpTo (cap := c.tableLen / 2) number (by omega)
  · have := lt_ceilUpTo_of_below inside lt
    omega

end

/-- At the decided parameters every power within one unit in the last place gives the notes 0 .. 16 the limit 1023. -/
theorem harmonicLimit_of_lowPower :
    (Claims.lowPowers.flatMap fun r => [r, r + 1#64, r - 1#64]).all
      (fun p => harmonicLimit ⟨id, fun _ _ => p⟩ (decidedConfig binary32) 0 == 1023) = true := by
  decide +kernel

/-- The limit of a note depends on its power alone. -/
theorem harmonicLimit_eq_of_power (M : WaveMath) (c : EngineConfig binary32) (n : Nat) :
    harmonicLimit M c n =
      harmonicLimit ⟨id, fun _ _ => M.pow (fnat 2) (fdiv (fint (n - 69 : Int)) (fnat 12))⟩ c 0 := rfl

theorem harmonicLimit_of_low_note {M : WaveMath} (accurate : Claims.AccurateLowPowers M) {n : Nat} (hn : n ≤ 16) :
    harmonicLimit M (decidedConfig binary32) n = 1023 := by
  have inList : Claims.lowPowers.getD n 0#64 ∈ Claims.lowPowers := by
    rw [List.getD_eq_getElem _ _ (show n < Claims.lowPowers.length from Nat.lt_succ_of_le hn)]
    exact List.getElem_mem _
  rw [harmonicLimit_eq_of_power]
  exact beq_iff_eq.mp (List.all_eq_true.mp harmonicLimit_of_lowPower _
    (List.mem_flatMap.mpr ⟨_, inList, by simpa using accurate n hn⟩))

theorem waveRaw_eq_of_harmonicLimit_eq {M : WaveMath} {c : EngineConfig binary32} {m n : Nat}
    (h : harmonicLimit M c m = harmonicLimit M c n) (w i : Nat) : waveRaw M c w m i = waveRaw M c w n i := by
  rw [waveRaw, waveRaw, h]

/-- Settles O43: the sum written as a list of terms, the two directions of the limit, and the limit of the low notes. -/
theorem segmentsAreBandLimited : Obligations.SegmentsAreBandLimited := by
  refine ⟨wavetable_eq_tableEntry, fun M c w n i => ?_, harmonicLimit_bounds,
    fun M accurate n hn => ⟨?_, fun w i => ?_⟩⟩
  · rw [tableEntry, waveRaw, waveSum_eq_foldl]
    rfl
  · exact harmonicLimit_of_low_note accurate hn
  · have same := (harmonicLimit_of_low_note accurate hn).trans
      (harmonicLimit_of_low_note accurate (Nat.zero_le 16)).symm
    rw [tableEntry, tableEntry, waveRaw_eq_of_harmonicLimit_eq same]

/-! ## The start of a segment (R221) -/

/-- A positive number of the table's size: finite, without a sign and not 0. -/
theorem fnat64_positive {n : Nat} (positive : 1 ≤ n) (h : n < 2 ^ 32) :
    finite (fnat n : F64) = true ∧ negative (fnat n : F64) = false ∧ magCode (fnat n : F64) ≠ 0 := by
  have number := fnat_denotes_binary64 (h.trans (by decide))
  exact ⟨number.finite, number.negative_of_pos (by exact_mod_cast positive)⟩

theorem two_pi_positive :
    finite (fmul (fnat 2) fpi : F64) = true ∧ negative (fmul (fnat 2) fpi : F64) = false := by
  decide +kernel

section
variable {M : WaveMath} {c : EngineConfig binary32} (sine : M.sin 0#64 = 0#64)
  (positive : 1 ≤ c.tableLen) (small : c.tableLen < 2 ^ 32)
include sine positive small

/-- Every harmonic starts at the sine of 0. -/
theorem waveSine_start (k : Nat) : waveSine M c k 0 = 0#64 := by
  obtain ⟨piFinite, piSign⟩ := two_pi_positive
  obtain ⟨lenFinite, lenSign, nonzero⟩ := fnat64_positive positive small
  have hF : 0 < binary64.expBits := by decide
  have angle : fmul (fmul (fnat 2) fpi) (fnat 0) = (encoded binary64 false 0 : F64) := by
    rw [fnat_zero_eq_encoded, fmul_zero_right hF piFinite (magCode_encoded_zero _), piSign,
      negative_encoded_zero]
    rfl
  rw [waveSine, Nat.mul_zero, Nat.zero_mod, angle,
    fdiv_zero_left hF (magCode_encoded_zero _) lenFinite nonzero, lenSign, negative_encoded_zero]
  exact sine

theorem waveTerm_start {H k : Nat} (hk : 1 ≤ k) (bound : k < 2 ^ 32) (sigma : finite (lanczosSigma M k H) = true) :
    magCode (waveTerm M c H k 0) = 0 := by
  obtain ⟨finite, -, nonzero⟩ := fnat64_positive hk bound
  have hF : 0 < binary64.expBits := by decide
  rw [waveTerm, waveSine_start sine positive small, fmul_zero_right hF sigma (by decide),
    fdiv_zero_left hF (magCode_encoded_zero _) finite nonzero, magCode_encoded_zero]

/-- The sum of the harmonics' starts is +0, whatever their signs: it starts from +0. -/
theorem waveSum_start (w : Nat) {H K : Nat} (bound : K < 2 ^ 32)
    (sigma : ∀ k, 1 ≤ k → k ≤ K → finite (lanczosSigma M k H) = true) :
    waveSum M c w H 0 K = encoded binary64 false 0 := by
  induction K with
  | zero => exact fnat_zero_eq_encoded
  | succ K ih =>
    have sum := ih (by omega) fun k one le => sigma k one (by omega)
    have term := waveTerm_start sine positive small (Nat.le_add_left 1 K) bound (sigma _ (Nat.le_add_left 1 K) le_rfl)
    rw [waveSum, sum]
    split
    · rfl
    · rw [fadd_zero_zero (by decide) (magCode_encoded_zero _) term, negative_encoded_zero]
      rfl

end

theorem harmonicLimit_lt {M : WaveMath} {c : EngineConfig binary32} (small : c.tableLen < 2 ^ 32) (n : Nat) :
    harmonicLimit M c n < 2 ^ 32 := by
  rw [harmonicLimit]
  omega

/-- The table's rounding to REAL is a rounding of the binary64 datum (R220). -/
theorem convert_binary64 (a : F64) : (convert a : F32) = rounded (someNaN (Config.nanConvert a)) (datum a) := by
  rw [convert, dif_neg (by decide)]

/-! ## The peak (R220) -/

theorem isNaN_nanResult_binary64 (op : Config.RealOp) (a b : F64) : isNaN (nanResult op a b) = true := by
  rw [nanResult, someNaN]
  split
  · assumption
  · decide

theorem segmentPeak_eq_foldl (M : WaveMath) (c : EngineConfig binary32) (w n I : Nat) (p : F64) :
    segmentPeak M c w n I p = ((List.range I).map (waveRaw M c w n)).foldl peakStep p := by
  induction I with
  | zero => rfl
  | succ I ih => rw [segmentPeak, ih, List.range_succ, List.map_append, List.foldl_append]; rfl

/-- The entries of a group before normalisation, of the segments n < N. -/
def groupRaw (M : WaveMath) (c : EngineConfig binary32) (w N : Nat) : List F64 :=
  (List.range N).flatMap fun n => (List.range c.tableLen).map (waveRaw M c w n)

theorem mem_groupRaw {M : WaveMath} {c : EngineConfig binary32} {w N : Nat} {x : F64} :
    x ∈ groupRaw M c w N ↔ ∃ n < N, ∃ i < c.tableLen, waveRaw M c w n i = x := by
  simp [groupRaw]

/-- The peak is that of all entries, in one pass. -/
theorem groupPeak_eq_foldl (M : WaveMath) (c : EngineConfig binary32) (w N : Nat) :
    groupPeak M c w N = (groupRaw M c w N).foldl peakStep (fnat 0) := by
  induction N with
  | zero => rfl
  | succ N ih =>
    rw [groupPeak, segmentPeak_eq_foldl, ih, groupRaw, groupRaw, List.range_succ, List.flatMap_append,
      List.foldl_append, List.flatMap_singleton]

/-- The running peak never has a sign: a NaN does not replace it. -/
theorem negative_peakStep {p : F64} (hp : negative p = false) (x : F64) : negative (peakStep p x) = false := by
  rw [peakStep]
  split
  · rename_i greater
    by_cases nan : isNaN x = true
    · rw [fabs, if_pos nan, flt, isNaN_nanResult_binary64] at greater
      simp at greater
    · rw [fabs, if_neg nan]
      exact negative_encoded _ (not_lt.mp (mt isNaN_iff.mpr nan))
  · exact hp

theorem negative_groupPeak (M : WaveMath) (c : EngineConfig binary32) (w N : Nat) :
    negative (groupPeak M c w N) = false := by
  rw [groupPeak_eq_foldl, fnat_zero_eq_encoded]
  refine List.foldlRecOn (motive := fun p => negative p = false) _ _ (negative_encoded_zero _) ?_
  exact fun p hp x _ => negative_peakStep hp x

/-- The greater magnitude. -/
theorem magCode_peakStep {p x : F64} (hp : finite p = true) (sign : negative p = false) (hx : finite x = true) :
    magCode (peakStep p x) = max (magCode p) (magCode x) := by
  have order : flt p (fabs x) = true ↔ magCode p < magCode x := by
    rw [fabs_of_finite hx, flt_iff_of_denotes ⟨hp, rfl⟩ (denotes_encoded false (finite_iff.mp hx)), value, sign,
      signed_false, signed_false, codeValue_lt_iff]
  rw [peakStep]
  split
  · rename_i greater
    rw [fabs_of_finite hx, magCode_encoded _ (finite_iff.mp hx).le, max_eq_right (order.mp greater).le]
  · rename_i notGreater
    rw [max_eq_left (not_lt.mp (mt order.mpr notGreater))]

/-- The running peak is the greatest magnitude so far. -/
theorem foldl_peakStep (xs : List F64) {p : F64} (hp : finite p = true) (sign : negative p = false)
    (hxs : ∀ x ∈ xs, finite x = true) :
    magCode (xs.foldl peakStep p) = (xs.map magCode).foldl max (magCode p) := by
  induction xs generalizing p with
  | nil => rfl
  | cons x xs ih =>
    have hx := hxs x List.mem_cons_self
    have step := magCode_peakStep hp sign hx
    have finite : finite (peakStep p x) = true := by
      rw [finite_iff] at hp hx ⊢
      omega
    rw [List.foldl_cons, ih finite (negative_peakStep sign x) fun y hy => hxs y (List.mem_cons_of_mem x hy), step]
    rfl

/-- The peak of a group of finite entries bounds their magnitudes, and unless it is 0 one of them has it. -/
theorem groupPeak_spec {M : WaveMath} {c : EngineConfig binary32} {w N : Nat}
    (finite : ∀ n < N, ∀ i < c.tableLen, finite (waveRaw M c w n i) = true) :
    (∀ n < N, ∀ i < c.tableLen, magCode (waveRaw M c w n i) ≤ magCode (groupPeak M c w N)) ∧
    (magCode (groupPeak M c w N) ≠ 0 →
      ∃ n < N, ∃ i < c.tableLen, magCode (waveRaw M c w n i) = magCode (groupPeak M c w N)) := by
  have peak := foldl_peakStep (groupRaw M c w N) (p := fnat 0) (by decide +kernel) (by decide +kernel) fun x hx => by
    obtain ⟨n, hn, i, hi, rfl⟩ := mem_groupRaw.mp hx
    exact finite n hn i hi
  rw [← groupPeak_eq_foldl] at peak
  have greatest : (0 :: (groupRaw M c w N).map magCode).max? = some (magCode (groupPeak M c w N)) := by
    rw [List.max?_cons', peak, fnat_zero_eq_encoded, magCode_encoded_zero]
  obtain ⟨attained, upper⟩ := List.max?_eq_some_iff.mp greatest
  constructor
  · exact fun n hn i hi => upper _
      (List.mem_cons_of_mem 0 (List.mem_map_of_mem (mem_groupRaw.mpr ⟨n, hn, i, hi, rfl⟩)))
  · intro nonzero
    obtain ⟨x, hx, eq⟩ := List.mem_map.mp ((List.mem_cons.mp attained).resolve_left nonzero)
    obtain ⟨n, hn, i, hi, rfl⟩ := mem_groupRaw.mp hx
    exact ⟨n, hn, i, hi, eq⟩

/-! ## The quotient by the peak (R220, R221) -/

/-- The rounding of the quotient to REAL: at most 1 in magnitude, and 1 where the quotient is 1. -/
theorem convert_eq_encoded_of_le_oneCode (neg : Bool) {c : Nat} (le : c ≤ oneCode binary64) :
    ∃ d, (convert (encoded binary64 neg c) : F32) = encoded binary32 neg d ∧ d ≤ oneCode binary32 ∧
      (c = oneCode binary64 → d = oneCode binary32) := by
  have finite : c < infCode binary64 := le.trans_lt (by decide)
  obtain ⟨m, e, data, value, -⟩ := datum_of_finite (denotes_encoded neg finite).finite
  rw [magCode_encoded _ finite.le] at value
  rw [negative_encoded _ finite.le] at data
  have one : codeValue binary64 (oneCode binary64) = 1 := codeValue_oneCode (by decide)
  rw [convert_binary64, data]
  refine ⟨_, rfl, roundCode_le_oneCode (by decide) (by decide) ?_, fun same =>
    roundCode_eq_oneCode (by decide) (by decide) (by decide) ?_⟩
  · rw [value, ← one]
    exact codeValue_strictMono.monotone le
  · rw [value, same, one]

theorem finite_of_finite64 {a : F64} (h : Claims.finite64 a) : finite a = true := decide_eq_true h

theorem fnat_one_eq_encoded : (fnat 1 : F32) = encoded binary32 false (oneCode binary32) := by decide +kernel

/-- Settles O42: the harmonics of a segment start at zeros; and the peak is one of the magnitudes that it bounds, so
that no quotient by it exceeds 1 and one is 1. -/
theorem tableStartsAtZeroWithUnitPeak : Obligations.TableStartsAtZeroWithUnitPeak := by
  intro M c w n i positive small peak hn hi peakFinite64 nonzero
  have nonzero : magCode peak ≠ 0 := nonzero.ne'
  have peakFinite : finite peak = true := finite_of_finite64 peakFinite64
  have hF : 0 < binary64.expBits := by decide
  constructor
  · intro sine sigma
    have raw : waveRaw M c w n 0 = encoded binary64 false 0 :=
      waveSum_start sine positive small w (harmonicLimit_lt small n) fun k one le => finite_of_finite64 (sigma k one le)
    obtain ⟨e, zero⟩ := datum_of_zero hF (magCode_encoded_zero (F := binary64) false)
    rw [tableEntry, raw, fdiv_zero_left hF (magCode_encoded_zero _) peakFinite nonzero, negative_groupPeak,
      negative_encoded_zero, convert_binary64, bne_self_eq_false, zero, negative_encoded_zero, rounded_zero,
      fnat_zero_eq_encoded]
  · intro rawFinite
    have rawFinite : ∀ m < Config.numNotes, ∀ j < c.tableLen, finite (waveRaw M c w m j) = true :=
      fun m hm j hj => finite_of_finite64 (rawFinite m j hm hj)
    obtain ⟨upper, attained⟩ := groupPeak_spec rawFinite
    have entry (m : Nat) (hm : m < Config.numNotes) (j : Nat) (hj : j < c.tableLen) :
        ∃ d, fabs (tableEntry M c w m j) = encoded binary32 false d ∧ d ≤ oneCode binary32 ∧
          (magCode (waveRaw M c w m j) = magCode peak → d = oneCode binary32) := by
      obtain ⟨neg, q, quotient, le, eq⟩ := fdiv_eq_encoded_of_magCode_le hF (by decide) (by decide)
        (rawFinite m hm j hj) peakFinite nonzero (upper m hm j hj)
      obtain ⟨d, entry, le', eq'⟩ := convert_eq_encoded_of_le_oneCode neg le
      have finite : d < infCode binary32 := le'.trans_lt (by decide)
      refine ⟨d, ?_, le', fun same => eq' (eq same)⟩
      rw [tableEntry, quotient, entry, fabs_of_finite (denotes_encoded neg finite).finite, magCode_encoded _ finite.le]
    constructor
    · obtain ⟨d, eq, le, -⟩ := entry n hn i hi
      rw [eq, fnat_one_eq_encoded, fle_iff_of_denotes (denotes_encoded false (le.trans_lt (by decide)))
        (denotes_encoded false (by decide))]
      exact codeValue_strictMono.monotone le
    · obtain ⟨m, hm, j, hj, same⟩ := attained nonzero
      obtain ⟨d, eq, -, one⟩ := entry m hm j hj
      exact ⟨m, j, hm, hj, by rw [eq, one same, fnat_one_eq_encoded]⟩

/-! ## The segment of a step (R215, R393) -/

/-- The pitch of a step with its octave flags. -/
def movedPitch (st : Step) : ℤ :=
  (st.pitch.toNat : ℤ) - (if st.octaveDown then 12 else 0) + (if st.octaveUp then 12 else 0)

/-- The target pitch is computed without rounding (R393). -/
theorem targetPitch_denotes (st : Step) : Denotes (targetPitch st : F32) (movedPitch st) := by
  have hF : 0 < binary32.expBits := by decide
  have bound := st.pitch.isLt
  have pitch : Denotes (fnat st.pitch.toNat : F32) (st.pitch.toNat : ℤ) := fnat_denotes_binary32 (by omega)
  have octave : Denotes (fnat 12 : F32) (12 : ℤ) := fnat_denotes_binary32 (by decide)
  have lowered : Denotes (if st.octaveDown then fsub (fnat st.pitch.toNat) (fnat 12) else fnat st.pitch.toNat : F32)
      ((st.pitch.toNat - if st.octaveDown then 12 else 0 : ℤ) : ℤ) := by
    cases st.octaveDown
    · simpa using pitch
    · have := fsub_denotes hF pitch octave
      rw [← Int.cast_sub] at this
      exact this (representable_int_binary32 (by omega))
  rw [targetPitch, movedPitch]
  cases st.octaveUp
  · simpa using lowered
  · have := fadd_denotes hF lowered octave
    rw [← Int.cast_add] at this
    exact this (representable_int_binary32 (by split <;> omega))

/-- A significand below the unit of an integral number is a multiple of that unit. -/
theorem eq_mul_two_pow_of_integral {m k : Nat} {e : ℤ} (below : e < 0) (h : (m : ℚ) * 2 ^ e = k) :
    m = k * 2 ^ (-e).toNat := by
  have : (m : ℚ) = k * 2 ^ (-e).toNat := by
    have shift := two_pow_toNat_mul below.le
    rw [zero_sub, zpow_zero] at shift
    rw [← h, mul_assoc, mul_comm (2 ^ e), shift, mul_one]
  exact_mod_cast this

theorem abs_integral {neg : Bool} {m : Nat} {e z : ℤ} (h : signed neg ((m : ℚ) * 2 ^ e) = z) :
    (m : ℚ) * 2 ^ e = z.natAbs := by
  rw [Nat.cast_natAbs, Int.cast_abs, ← h, abs_signed _ (mul_nonneg (Nat.cast_nonneg _) (quantum_pos e).le)]

/-- Rounding to the nearest integer keeps an integer (R215). -/
theorem froundHalfAway_denotes {a : F32} {z : ℤ} (ha : Denotes a z) : Denotes (froundHalfAway a) z := by
  obtain ⟨neg, m, e, data, eq⟩ := ha.datum
  rw [froundHalfAway, roundReal, data]
  dsimp only
  split
  · exact rounded_denotes (by decide) _ eq ha.representable
  · refine rounded_denotes (by decide) _ ?_ ha.representable
    have size := abs_integral eq
    have unit := Nat.two_pow_pos (-e).toNat
    have nearest : (2 * m + 2 ^ (-e).toNat) / (2 * 2 ^ (-e).toNat) = z.natAbs := by
      rw [eq_mul_two_pow_of_integral (by omega) size, Nat.div_eq_iff (by omega), mul_left_comm]
      omega
    rw [nearest, zpow_zero, mul_one, ← size, eq]

/-- `floor_u32` of a natural number is the number (R12). -/
theorem toNat_floorU32 {a : F32} {n : Nat} (ha : Denotes a n) (h : n < 2 ^ 32) : (floorU32 a).toNat = n := by
  obtain ⟨neg, m, e, data, eq⟩ := ha.datum
  have size : (m : ℚ) * 2 ^ e = n := abs_integral (z := n) (by exact_mod_cast eq)
  have sign : (neg && m != 0) = false := by
    cases neg
    · rfl
    · rw [signed_true, size, neg_eq_self, ← size, mul_eq_zero, or_iff_left (quantum_pos e).ne', Nat.cast_eq_zero] at eq
      simp [eq]
  have whole : (if 0 ≤ e then m * 2 ^ e.toNat else m / 2 ^ (-e).toNat) = n := by
    split
    · rename_i nonneg
      obtain ⟨k, rfl⟩ := Int.eq_ofNat_of_zero_le nonneg
      rw [zpow_natCast] at size
      exact_mod_cast size
    · rw [eq_mul_two_pow_of_integral (by omega) size, Nat.mul_div_cancel _ (Nat.two_pow_pos _)]
  simp only [floorU32, data, sign, Bool.false_eq_true, if_false, whole, BitVec.toNat_ofNat]
  omega

/-- The clamp of an integer to the notes of the table (R215). -/
theorem fclamp_notes_denotes {a : F32} {z : ℤ} (ha : Denotes a z) :
    Denotes (fclamp a fzero (fnat 127)) (max 0 (min 127 z) : ℤ) := by
  have bottom : Denotes (fzero : F32) (0 : ℤ) := by exact_mod_cast fzero_denotes
  have top : Denotes (fnat 127 : F32) (127 : ℤ) := fnat_denotes_binary32 (by decide)
  have ends : fle (fzero : F32) (fnat 127) = true := (fle_iff_of_denotes bottom top).mpr (by norm_num)
  rcases lt_or_ge z 0 with below | nonneg
  · rw [fclamp_of_below ((flt_iff_of_denotes ha bottom).mpr (by exact_mod_cast below)) ends,
      max_eq_left (by omega)]
    exact bottom
  · rcases lt_or_ge 127 z with above | inside
    · rw [fclamp_of_above ((flt_iff_of_denotes top ha).mpr (by exact_mod_cast above)) ends, min_eq_left (by omega)]
      exact top
    · rw [fclamp_of_inside ((fle_iff_of_denotes bottom ha).mpr (by exact_mod_cast nonneg))
        ((fle_iff_of_denotes ha top).mpr (by exact_mod_cast inside)), min_eq_right inside, max_eq_right nonneg]
      exact ha

theorem noteIndex_of_denotes {p : F32} {z : ℤ} (hp : Denotes p z) : ((noteIndex p).val : ℤ) = max 0 (min 127 z) := by
  have clamped := fclamp_notes_denotes (froundHalfAway_denotes hp)
  obtain ⟨n, hn⟩ := Int.eq_ofNat_of_zero_le (le_max_left 0 (min 127 z))
  have range : n < Config.numNotes := by
    rw [Config.numNotes]
    omega
  rw [hn] at clamped ⊢
  have floor : (floorU32 (fclamp (froundHalfAway p) fzero (fnat 127))).toNat = n :=
    toNat_floorU32 (by exact_mod_cast clamped) (range.trans (by decide))
  rw [noteIndex, floor, Fin.val_ofNat, Nat.mod_eq_of_lt range]

/-- The segment of a step is the rule's. -/
theorem noteIndex_targetPitch (st : Step) : ((noteIndex (targetPitch st : F32)).val : ℤ) = Claims.segment st :=
  noteIndex_of_denotes (targetPitch_denotes st)

/-! ## The notification of a step (R394) -/

/-- Bytes written at the end of those read are read after them. -/
theorem memReadBytes_memWriteBytes {m : Memory 8} (wf : m.wf) (n : Nat) (bs : List U8) :
    memReadBytes (memWriteBytes n bs m) 0 (n + bs.length) = memReadBytes m 0 n ++ bs := by
  refine List.ext_getElem (by simp [memReadBytes]) fun k _ hk => ?_
  simp only [memReadBytes, List.getElem_map, List.getElem_range, Nat.zero_add]
  rcases lt_or_ge k n with old | new
  · rw [List.getElem_append_left (by simpa using old), memRead_memWriteBytes_other bs m n k (.inl old)]
    simp
  · obtain ⟨j, rfl⟩ := Nat.exists_eq_add_of_le new
    have inside : j < bs.length := by simpa [memReadBytes] using hk
    rw [List.getElem_append_right (by simp), memRead_memWriteBytes_same bs m n j wf inside]
    simp

/-- A notification to a state with the stream and the log of `s` is the rule's. -/
theorem pushNotify_notifies (p : Fin Config.maxSteps) {s u : State} (wf : s.notify.wf) (config : u.config = s.config)
    (same : SameNotify s u) : Claims.Notifies p s (pushNotify p u) := by
  obtain ⟨room, pushed⟩ | ⟨full, pushed⟩ := pushNotify_cases p u
  · rw [config, same.notifyLen] at room
    rw [pushed]
    refine ⟨fun _ => ⟨?_, congrArg (· + 5) same.notifyLen, same.log, fun a outside => ?_⟩,
      fun full => absurd room (Nat.not_le.mpr full)⟩
    · rw [notifications, same.notify, same.notifyLen]
      exact memReadBytes_memWriteBytes wf s.notifyLen _
    · rw [same.notify, same.notifyLen]
      exact memRead_memWriteBytes_other _ _ _ _ outside
  · rw [config, same.notifyLen] at full
    rw [pushed]
    exact ⟨fun room => absurd room (Nat.not_le.mpr full),
      fun _ => ⟨same.notify, same.notifyLen, congrArg (· ++ _) same.log⟩⟩

/-! ## The start of a note (R211, R391) -/

/-- An enabled step plays and notifies (R390, R391). -/
theorem voiceSequence_of_enabled {s : State} {q : Sequencer} {p : Fin Config.maxSteps} {st : Step}
    (advance : seqAdvance s.config s.params.tempo s.seq = (q, some (p, st))) (enabled : st.enabled = true) :
    voiceSequence s = pushNotify p (playStep st { s with seq := q }) := by
  simp only [voiceSequence, advance, onStep, enabled, if_true]

/-- The accent and the multipliers that a played step sets are the rule's (R391, R392). -/
theorem playStep_envelopes (st : Step) (s : State) :
    (playStep st s).accentActive = st.accent ∧
    (playStep st s).ampMul = Claims.multiplier s.config st.accent s.params.decay ∧
    (playStep st s).filtMul = (playStep st s).ampMul := by
  rw [playStep]
  cases st.slide <;> exact ⟨rfl, rfl, rfl⟩

/-- A step without slide restarts the oscillator and sets both envelopes to 1 (R211, R391). -/
theorem playStep_of_newNote {st : Step} (newNote : st.slide = false) (s : State) :
    (playStep st s).osc = oscReset s.config s.params.waveform (targetPitch st) ∧
    (playStep st s).ampEnv = fnat 1 ∧ (playStep st s).filtEnv = fnat 1 := by
  rw [playStep, newNote]
  exact ⟨rfl, rfl, rfl⟩

/-- The sequencer's part of a sample writes the sequencer, the oscillator, the envelopes, the notifications and the log
only (R390). -/
theorem voiceSequence_eq_with (s : State) :
    { voiceSequence s with
      seq := s.seq, osc := s.osc, ampEnv := s.ampEnv, filtEnv := s.filtEnv, ampMul := s.ampMul
      filtMul := s.filtMul, accentActive := s.accentActive
      notify := s.notify, notifyLen := s.notifyLen, log := s.log } = s := by
  obtain ⟨control, signal, -⟩ := voiceSequence_frame s
  simp only [control.config, control.stage, control.cursor, control.returned, control.host, control.cmd, control.outL,
    control.outR, control.params, signal.hp1, signal.ap, signal.hp2, signal.notch, signal.declick, signal.ladder,
    signal.sweptCutoff, signal.sampleCount, signal.delayBuf, signal.delayPos]

/-- Settles O58: what a new note writes, and that its notification keeps it. -/
theorem newNoteRetriggers : Obligations.NewNoteRetriggers := by
  intro s q p st wf advance enabled newNote t
  have played : t = pushNotify p (playStep st { s with seq := q }) := voiceSequence_of_enabled advance enabled
  obtain ⟨control, notify, -⟩ := playStep_frame st { s with seq := q }
  obtain ⟨-, -, -, osc, ampEnv, filtEnv, ampMul, filtMul, accent⟩ :=
    pushNotify_frame p (playStep st { s with seq := q })
  obtain ⟨accent', ampMul', filtMul'⟩ := playStep_envelopes st { s with seq := q }
  obtain ⟨osc', ampEnv', filtEnv'⟩ := playStep_of_newNote newNote { s with seq := q }
  rw [← played] at osc ampEnv filtEnv ampMul filtMul accent
  obtain ⟨-, -, seq⟩ := voiceSequence_frame s
  have notifies : Claims.Notifies p s t :=
    played ▸ pushNotify_notifies p wf control.config ⟨notify.notify, notify.notifyLen, notify.log⟩
  rw [ampEnv, filtEnv, osc, osc', accent, filtMul, ampMul]
  exact ⟨ampEnv', filtEnv', fnat_zero.symm, incOf_eq_increment .., rfl, fnat_zero.symm, rfl,
    noteIndex_targetPitch st, rfl, accent', ampMul', filtMul', seq.trans (congrArg Prod.fst advance), notifies,
    voiceSequence_eq_with s⟩

end Sys2Proof.Machine
end

section
/-! PROOFS of the family 43_filter_primitives.md: the designs (R251 to R275), the Moorer designs' branch and guard (R272
to R274), and the renders (R250, R255, R271, R305). -/

namespace Sys2Proof.Machine

open Sys2Proof.Config (BiquadRaw MoorerDesign MoorerInput MoorerRoots GuardedDivision)

variable (c : EngineConfig binary32)

/-! ## The designs (R251 to R269) -/

/-- A one-pole design at a finite frequency stores the rule's coefficients and nothing else (R251, R252). -/
theorem designOnePole_of_finite {f : F32} (hf : finite f = true) (F : OnePole binary32) :
    designOnePoleHP c F f = { F with
      b0 := fmul fhalf (fadd fone (Claims.pole c f))
      b1 := fmul (fneg fhalf) (fadd fone (Claims.pole c f))
      a1 := Claims.pole c f } ∧
    designOnePoleAP c F f = { F with b0 := fneg (Claims.pole c f), b1 := fone, a1 := Claims.pole c f } :=
  ⟨if_pos hf, if_pos hf⟩

/-- A one-pole design at a non-finite frequency keeps the section (R257). -/
theorem designOnePole_of_not_finite {f : F32} (hf : finite f = false) (F : OnePole binary32) :
    designOnePoleHP c F f = F ∧ designOnePoleAP c F f = F := by
  have notFinite : ¬ finite f = true := Bool.eq_false_iff.mp hf
  exact ⟨if_neg notFinite, if_neg notFinite⟩

/-- What a design stores in a biquad: the raw values over `A0`, with bypass off (R258). -/
def normalised (F : Biquad binary32) (r : BiquadRaw binary32) : Biquad binary32 :=
  { F with
    b0 := fdiv r.B0 r.A0, b1 := fdiv r.B1 r.A0, b2 := fdiv r.B2 r.A0
    a1 := fdiv r.A1 r.A0, a2 := fdiv r.A2 r.A0, bypass := false }

theorem designBiquad_of_finite {f : F32} (hf : finite f = true) (F : Biquad binary32) (d : BiquadDesign binary32) :
    designBiquad c F d f = normalised F (biquadRaw c d (Claims.clampedHz c f)) := if_pos hf

theorem designBiquad_of_not_finite {f : F32} (hf : finite f = false) (F : Biquad binary32)
    (d : BiquadDesign binary32) : designBiquad c F d f = F := if_neg (Bool.eq_false_iff.mp hf)

/-- A biquad design writes no delay register (R254), whatever the frequency. -/
theorem designBiquad_registers (F : Biquad binary32) (d : BiquadDesign binary32) (f : F32) :
    (designBiquad c F d f).x1 = F.x1 ∧ (designBiquad c F d f).x2 = F.x2 ∧
    (designBiquad c F d f).y1 = F.y1 ∧ (designBiquad c F d f).y2 = F.y2 := by
  cases hf : finite f with
  | false => rw [designBiquad_of_not_finite c hf]; exact ⟨rfl, rfl, rfl, rfl⟩
  | true => rw [designBiquad_of_finite c hf]; exact ⟨rfl, rfl, rfl, rfl⟩

theorem alphaOf_eq_alpha (w : FilterWidth binary32) (w0 sn : F32) : alphaOf w w0 sn = Claims.alpha w0 sn w := by
  cases w <;> rfl

/-- The model's raw values are those of the rules, for every design that has a rule (R259 to R269). -/
theorem biquadRaw_of_raw {fc : F32} {d : BiquadDesign binary32} {r : BiquadRaw binary32}
    (rule : Claims.raw (angularFreq c fc) d = some r) : biquadRaw c d fc = r := by
  refine Option.some.inj (Eq.trans ?_ rule)
  cases d with
  | lowPass12 w | highPass12 w | bandPassSkirt w | bandPassPeak w | notch w | allPass w | peaking w g | lowShelf w g
  | highShelf w g => simp only [biquadRaw, alphaOf_eq_alpha]; rfl
  | lowPass6 | highPass6 => rfl
  | moorerPresence _ _ | moorerLowShelf _ _ | moorerHighShelf _ _ => cases rule

/-- Settles O45, by whether the frequency is finite: the one-pole designs, then the biquad designs by their raw
values. -/
theorem designsKeepTheDelayRegisters : Obligations.DesignsKeepTheDelayRegisters := by
  constructor
  · intro c F f
    exact ⟨fun hf => designOnePole_of_not_finite c hf F, fun hf => designOnePole_of_finite c hf F⟩
  · intro c F d f
    obtain ⟨x1, x2, y1, y2⟩ := designBiquad_registers c F d f
    refine ⟨x1, x2, y1, y2, fun hf => designBiquad_of_not_finite c hf F d, fun hf => ?_⟩
    rw [designBiquad_of_finite c hf]
    refine ⟨rfl, fun r rule => ?_⟩
    rw [biquadRaw_of_raw c rule]
    rfl

/-! ## The Moorer designs (R272 to R274) -/

theorem moorerBranch_of_none {r : MoorerRoots binary32} (absent : r.other = none) : moorerBranch r = r.principal := by
  rw [moorerBranch, absent]

/-- The branch rule where the other root exists (R273). -/
theorem moorerBranch_of_some {r : MoorerRoots binary32} {other : F32} (present : r.other = some other) :
    moorerBranch r = if flt (fnat 0) other = true ∧ flt other r.principal = true then other else r.principal := by
  rw [moorerBranch, present, fnat_zero]
  simp only [Bool.and_eq_true]

theorem moorerGuard_of_near {q : GuardedDivision binary32} (near : fle (fabs q.denominator) c.moorerEps = true) :
    moorerGuard c q = q.fallback := if_pos near

theorem moorerGuard_of_far {q : GuardedDivision binary32} (far : fle (fabs q.denominator) c.moorerEps = false) :
    moorerGuard c q = q.value := if_neg (Bool.eq_false_iff.mp far)

section
variable (next : List F32 → GuardedDivision binary32)

theorem length_guardedDivisions (n : Nat) : (guardedDivisions c next n).length = n := by
  induction n with
  | zero => rfl
  | succ n ih => rw [guardedDivisions, List.length_append, ih, List.length_singleton]

/-- Each division is the guarded one that the divisions before it lead to (R274). -/
theorem guardedDivisions_getElem? {k n : Nat} (hk : k < n) :
    (guardedDivisions c next n)[k]? = some (moorerGuard c (next ((guardedDivisions c next n).take k))) := by
  induction n with
  | zero => omega
  | succ n ih =>
    have length := length_guardedDivisions c next n
    rw [guardedDivisions, List.take_append_of_le_length (by omega)]
    rcases Nat.lt_succ_iff_lt_or_eq.mp hk with earlier | rfl
    · rw [List.getElem?_append_left (by omega), ih earlier]
    · rw [List.getElem?_append_right length.le, length, Nat.sub_self, List.take_of_length_le length.le]
      rfl

end

/-- The raw values of a Moorer design, which the bank has under the design's own name (R272). -/
theorem biquadRaw_moorerBiquad (d : MoorerDesign) (fc gainDb bw : F32) :
    biquadRaw c (Claims.moorerBiquad gainDb bw d) fc = moorerDesign c d fc gainDb bw := by
  cases d <;> rfl

/-- Settles O46: the band edge is the branch rule's root, and the divisions are the guarded ones. -/
theorem moorerDesignsBranchAndGuard : Obligations.MoorerDesignsBranchAndGuard := by
  intro c d gainDb bw f F hf x principal
  refine ⟨moorerBandEdge d x, moorerQuotients c d x, ?_, length_guardedDivisions .., ?_, ?_⟩
  · rintro rfl
    exact ⟨fun absent => congrArg some (moorerBranch_of_none absent),
      fun other present => congrArg some (moorerBranch_of_some present)⟩
  · intro k hk q
    have division : (moorerQuotients c d x)[k]? = some (moorerGuard c q) :=
      guardedDivisions_getElem? c _ (hk.trans_eq (length_guardedDivisions ..))
    rw [division]
    exact ⟨fun near => congrArg some (moorerGuard_of_near c near),
      fun far => congrArg some (moorerGuard_of_far c far)⟩
  · intro r
    rw [designBiquad_of_finite c hf, biquadRaw_moorerBiquad]
    rfl

/-! ## The renders (R250, R255, R271, R305) -/

/-- A biquad with bypass on returns its input and writes nothing (R271). -/
theorem biquadRender_of_bypass {F : Biquad binary32} (bypass : F.bypass = true) (x : F32) :
    biquadRender c F x = (F, x) := if_pos bypass

/-- The output of the biquad's recursion (R255). -/
def biquadOutput (F : Biquad binary32) (x : F32) : F32 :=
  fsub (fsub (fadd (fadd (fmul F.b0 x) (fmul F.b1 F.x1)) (fmul F.b2 F.x2)) (fmul F.a1 F.y1)) (fmul F.a2 F.y2)

/-- Without bypass, a biquad's render shifts the registers and stores the output with the bias (R255, R256). -/
theorem biquadRender_of_not_bypass {F : Biquad binary32} (active : F.bypass = false) (x : F32) :
    biquadRender c F x =
      ({ F with x1 := x, x2 := F.x1, y1 := fadd (biquadOutput F x) c.denormalBias, y2 := F.y1 }, biquadOutput F x) :=
  if_neg (Bool.eq_false_iff.mp active)

/-- LADDER_SHAPE is the identity (R305, log 18). -/
@[simp] theorem ladderShape_eq (x : F32) : ladderShape x = x := rfl

/-- Settles O47: the one-pole and ladder renders are their recursions as they stand, and the biquad's is where bypass is
off. -/
theorem rendersFollowTheirRecursions : Obligations.RendersFollowTheirRecursions := by
  intro c
  refine ⟨fun F x => rfl, fun F x active => biquadRender_of_not_bypass c active x, fun ld x => ?_⟩
  simp only [ladderRender, ladderShape_eq]
  rfl

/-- Settles O49. -/
theorem bypassReturnsItsInput : Obligations.BypassReturnsItsInput :=
  fun c _ x bypass => biquadRender_of_bypass c bypass x

end Sys2Proof.Machine
end

section
/-! PROOFS of the family 44_ladder.md: the ladder's controls (R320 to R322) and the filters with fixed settings (R306,
R400, R403). -/

namespace Sys2Proof.Machine

/-! ## The controls (R320 to R322) -/

/-- A clamp to a range in order leaves what R25 asks for: the operand inside the range, the nearer end outside it. -/
theorem fclamp_clamped {lo hi : F32} (order : fle lo hi = true) (v : F32) : Claims.Clamped lo hi v (fclamp v lo hi) :=
  ⟨fclamp_of_inside, fun below => fclamp_of_below below order, fun above => fclamp_of_above above order⟩

/-- Writing a parameter register and redesigning gives the rules' swept cutoff and coefficients at the new registers,
and nothing else (R304, R401). -/
theorem redesignLadder_updateParams (f : Params binary32 → Params binary32) (s : State) :
    redesignLadder (updateParams f s) =
      { s with
        params := f s.params
        sweptCutoff := Claims.swept s.config (f s.params) s.accentActive s.filtEnv
        ladder := Claims.redesigned s.config s.ladder
          (Claims.swept s.config (f s.params) s.accentActive s.filtEnv) (f s.params).resonance } := rfl

/-- A control that ignores a non-finite operand, and clamps a finite one to its range, stores it and redesigns, does
what R320 to R322 ask. -/
theorem writesClampedAndRedesigns_of_exec {i : F32 → Instr} {write : F32 → Params binary32 → Params binary32} {lo : F32}
    {hi : EngineConfig binary32 → F32} (finiteLo : finite lo = true)
    (control : ∀ (v : F32) (s : State), exec (i v) s =
      if finite v then .next (redesignLadder (updateParams (write (fclamp v lo (hi s.config))) s)) else .next s) :
    Claims.WritesClampedAndRedesigns i write lo hi := by
  refine fun v s => ⟨fun notFinite => ?_, fun finiteV finiteHi order => ⟨fclamp v lo (hi s.config), ?_, ?_, ?_⟩⟩
  · rw [control, if_neg (Bool.eq_false_iff.mp notFinite)]
  · rw [control, if_pos finiteV, redesignLadder_updateParams]
  · exact fclamp_inRange finiteV finiteLo finiteHi order
  · exact fclamp_clamped order v

section
variable (v : F32) (s : State)

theorem exec_setCutoff : exec (.setCutoff v) s =
    if finite v then
      .next (redesignLadder (updateParams (fun p => { p with cutoff := fclamp v fone s.config.fMax }) s))
    else .next s := by
  simp only [exec, execSetCutoff, convert_self]

theorem exec_setResonance : exec (.setResonance v) s =
    if finite v then .next (redesignLadder (updateParams (fun p => { p with resonance := fclamp v fzero fone }) s))
    else .next s := by
  simp only [exec, execSetResonance, convert_self]

theorem exec_setEnvMod : exec (.setEnvMod v) s =
    if finite v then .next (redesignLadder (updateParams (fun p => { p with envMod := fclamp v fzero fone }) s))
    else .next s := by
  simp only [exec, execSetEnvMod, convert_self]

end

/-- Settles O26: each of the three controls clamps, stores and redesigns. -/
theorem ladderControlsClampAndRedesign : Obligations.LadderControlsClampAndRedesign := by
  obtain ⟨finiteZero, finiteOne, -⟩ := range_ends
  unfold Obligations.LadderControlsClampAndRedesign
  rw [fnat_zero]
  exact ⟨writesClampedAndRedesigns_of_exec finiteOne exec_setCutoff,
    writesClampedAndRedesigns_of_exec finiteZero exec_setResonance,
    writesClampedAndRedesigns_of_exec finiteZero exec_setEnvMod⟩

/-! ## The filters with fixed settings (R306, R400, R403) -/

/-- An instruction writes none of these filters: of the ladder it writes `b0`, `g` and `k` only (R304). -/
theorem SameOutsideRegisters.designs {s t : State} (h : SameOutsideRegisters s t) : SameDesigns s t :=
  ⟨by rw [h.hp1], by rw [h.ap], by rw [h.hp2], by rw [h.notch], by rw [h.declick], by rw [h.ladder]⟩

theorem withHost_designs (s : State) (host : List HostCall) : SameDesigns s { s with host := host } :=
  ⟨rfl, rfl, rfl, rfl, rfl, rfl⟩

theorem withStage_designs (s : State) (stage : Stage) : SameDesigns s { s with stage := stage } :=
  ⟨rfl, rfl, rfl, rfl, rfl, rfl⟩

theorem hostMove_designs (c : HostCall) (s : State) : SameDesigns s (hostMove c s) := by
  cases c <;> exact ⟨rfl, rfl, rfl, rfl, rfl, rfl⟩

theorem endDecode_designs (s : State) : SameDesigns s (endDecode s) := ⟨rfl, rfl, rfl, rfl, rfl, rfl⟩

theorem storeSample_designs (i : Nat) (x : F32) (s : State) : SameDesigns s (storeSample i x s) :=
  ⟨rfl, rfl, rfl, rfl, rfl, rfl⟩

/-- By the kinds of step: only a sample writes these filters, and of them the delay registers (R250, R255, R305). -/
theorem step_sameDesigns {s t : State} (hs : s.constructed = true) (h : step s = .next t) : SameDesigns s t := by
  obtain ⟨-, -, rfl⟩ | ⟨-, c, rest, -, rfl⟩ | ⟨pos, i, rest, -, -, hexec⟩ | ⟨pos, e, -, -, rfl⟩ | ⟨i, -, rfl⟩ :=
    (step_cases h).resolve_left fun hc => State.stage_ne_constructing hs _ hc.1
  · exact ⟨rfl, rfl, rfl, rfl, rfl, rfl⟩
  · exact (withHost_designs s rest).trans (hostMove_designs c _)
  · exact (withStage_designs s (.decode (pos + i.size))).trans (exec_sameOutsideRegisters hexec).designs
  · exact endDecode_designs s
  · exact (voiceRender_frame s).2.2.1.trans (storeSample_designs i (voiceRender s).2 (voiceRender s).1)

/-- Settles O48: every step keeps the designs (`step_sameDesigns`). -/
theorem fixedFiltersAreNeverRedesigned : Obligations.FixedFiltersAreNeverRedesigned := by
  intro s t hs h
  obtain ⟨hp1, ap, hp2, notch, declick, fbhp⟩ := step_sameDesigns hs h
  exact ⟨hp1, ap, hp2, notch, declick, fbhp⟩

end Sys2Proof.Machine
end

section
/-! PROOFS of the family 45_saturator_delay.md: the saturator (R340 to R342), the delay line as the recursion of its
taps (R345, R346), and what follows of it (R347, R348, R354). -/

namespace Sys2Proof.Machine

variable {F : Format}

/-! ## Infinities, and a product with 1 (R12) -/

/-- An encoding is its sign and its magnitude. -/
theorem encoded_negative_magCode (a : REAL F) : encoded F (negative a) (magCode a) = a := by
  have lt := toNat_lt_two_signWeight a
  have parts : withSign F (negative a) (magCode a) = a.toNat := by
    simp only [withSign, negative, magCode, decide_eq_true_eq]
    split
    · rw [Nat.mod_eq_sub_mod ‹_›, Nat.mod_eq_of_lt (by omega), Nat.add_sub_cancel' ‹_›]
    · rw [Nat.zero_add, Nat.mod_eq_of_lt (by omega)]
  rw [encoded, parts, BitVec.ofNat_toNat, BitVec.setWidth_eq]

/-- An encoding with the magnitude code of infinity is unpacked as one. -/
theorem datum_of_magCode_eq_infCode {a : REAL F} (h : magCode a = infCode F) : datum a = .inf (negative a) := by
  have magnitude : a.toNat % signWeight F = infCode F := h
  simp only [datum, unpack, unpack_sign, magnitude, lt_irrefl, if_false, if_true]

@[simp] theorem datum_encoded_infCode (neg : Bool) : datum (encoded F neg (infCode F)) = .inf neg := by
  rw [datum_of_magCode_eq_infCode (magCode_encoded neg le_rfl), negative_encoded neg le_rfl]

theorem finite_encoded_infCode (neg : Bool) : finite (encoded F neg (infCode F)) = false := by
  rw [← Bool.not_eq_true, finite_iff, magCode_encoded neg le_rfl]
  exact lt_irrefl _

/-- What is not finite is a NaN or an infinity. -/
theorem isNaN_or_datum_inf {a : REAL F} (h : finite a = false) : isNaN a = true ∨ datum a = .inf (negative a) := by
  rw [← Bool.not_eq_true, finite_iff, not_lt] at h
  rw [isNaN_iff]
  exact (lt_or_eq_of_le h).imp_right fun eq => datum_of_magCode_eq_infCode eq.symm

/-- A sum with a first operand that is not finite is not finite. -/
theorem finite_fadd_eq_false {a : F32} (b : F32) (h : finite a = false) : finite (fadd a b) = false := by
  have ofNaN {c : F32} (nan : isNaN c = true) : finite c = false := by
    rw [← Bool.not_eq_true]
    exact fun fin => Bool.false_ne_true ((not_isNaN_of_finite fin).symm.trans nan)
  rcases isNaN_or_datum_inf h with nan | inf
  · exact ofNaN (isNaN_fadd_left b nan)
  · rw [fadd, inf]
    cases datum b with
    | nan => exact ofNaN (isNaN_roundReal_nan _ _ _)
    | inf s =>
      simp only [exactAdd]
      split
      · exact finite_encoded_infCode _
      · exact ofNaN (isNaN_roundReal_nan _ _ _)
    | fin => exact finite_encoded_infCode _

theorem isNaN_fsub_of_exact {a b : F32} (h : exactAdd (datum a) (exactNeg (datum b)) = .nan) :
    isNaN (fsub a b) = true := by
  rw [fsub, h]
  exact isNaN_roundReal_nan _ _ _

theorem isNaN_fmul_of_exact {a b : F32} (h : exactMul (datum a) (datum b) = .nan) : isNaN (fmul a b) = true := by
  rw [fmul, h]
  exact isNaN_roundReal_nan _ _ _

theorem isNaN_fdiv_of_exact {a b : F32} (h : exactDiv binary32 (datum a) (datum b) = .nan) :
    isNaN (fdiv a b) = true := by
  rw [fdiv, h]
  exact isNaN_roundReal_nan _ _ _

/-- The rest of a division by a period is a NaN for what is not finite, whatever the period: an infinity less a multiple
of the period that is a NaN or that same infinity. -/
theorem isNaN_rest_of_not_finite {u : F32} (period : F32) (h : finite u = false) :
    isNaN (fsub u (fmul period (ffloor (fdiv u period)))) = true := by
  rcases isNaN_or_datum_inf h with nan | infU
  · exact isNaN_fsub_left _ nan
  cases hp : datum period with
  | nan => exact isNaN_fsub_right _ (isNaN_fmul_of_exact (by rw [hp, exactMul]))
  | inf s =>
    have quotient : isNaN (fdiv u period) = true := isNaN_fdiv_of_exact (by rw [infU, hp, exactDiv])
    exact isNaN_fsub_right _ (isNaN_fmul_right _ (isNaN_ffloor quotient))
  | fin s m e =>
    have quotient : datum (fdiv u period) = .inf (negative u != s) := by
      rw [fdiv, infU, hp, exactDiv, roundReal, rounded, datum_encoded_infCode]
    have floor : datum (ffloor (fdiv u period)) = .inf (negative u != s) := by
      rw [ffloor, quotient, exactFloor, roundReal, rounded, datum_encoded_infCode]
    by_cases zero : m = 0
    · exact isNaN_fsub_right _ (isNaN_fmul_of_exact (by rw [hp, floor, exactMul, if_pos zero]))
    · have multiple : datum (fmul period (ffloor (fdiv u period))) = .inf (negative u) := by
        rw [fmul, hp, floor, exactMul, if_neg zero, roundReal, rounded, datum_encoded_infCode]
        cases negative u <;> cases s <;> rfl
      refine isNaN_fsub_of_exact ?_
      rw [infU, multiple]
      cases negative u <;> rfl

theorem orderKey_encoded_false {c : Nat} (hc : c ≤ infCode F) : orderKey (encoded F false c) = c := by
  have small := hc.trans_lt (infCode_lt_signWeight F)
  have code : (encoded F false c).toNat = c := (toNat_encoded false hc).trans (Nat.zero_add c)
  rw [orderKey, code, if_neg small.not_ge, Nat.mod_eq_of_lt small]

/-- Of the numbers only the positive infinity is not below the positive infinity. -/
theorem datum_of_infCode_le_orderKey (hF : 0 < F.expBits) {t : REAL F} (number : isNaN t = false)
    (h : infCode F ≤ orderKey t) : datum t = .inf false := by
  have bound : magCode t ≤ infCode F := not_lt.mp (mt isNaN_iff.mpr (Bool.eq_false_iff.mp number))
  have code : magCode t = t.toNat % signWeight F := rfl
  have positive := infCode_pos hF
  rw [orderKey, ← code] at h
  split at h
  · omega
  · have : negative t = false := decide_eq_false ‹_›
    rw [datum_of_magCode_eq_infCode (by omega), this]

/-- A magnitude that is not finite is within no bound but the positive infinity. -/
theorem datum_of_fabs_le {x t : F32} (h : finite x = false) (le : fle (fabs x) t = true) : datum t = .inf false := by
  obtain ⟨number, numberT, order⟩ := fle_iff.mp le
  have numberX : isNaN x = false := Bool.eq_false_iff.mpr fun nan => Bool.eq_false_iff.mp number (isNaN_fabs nan)
  have magnitude : magCode x = infCode binary32 := by
    rw [← Bool.not_eq_true, finite_iff, not_lt] at h
    exact le_antisymm (not_lt.mp (mt isNaN_iff.mpr (Bool.eq_false_iff.mp numberX))) h
  have absolute : fabs x = encoded binary32 false (infCode binary32) := by
    rw [fabs, numberX, ← magnitude]
    rfl
  rw [absolute, orderKey_encoded_false le_rfl] at order
  exact datum_of_infCode_le_orderKey (by decide) numberT order

theorem finite_of_fabs_le {x t : F32} (ht : finite t = true) (le : fle (fabs x) t = true) : finite x = true := by
  by_contra infinite
  obtain ⟨m, e, data, -⟩ := datum_of_finite ht
  have := datum_of_fabs_le (Bool.eq_false_iff.mpr infinite) le
  rw [data] at this
  cases this

/-- A product with 1 is the other operand, bit for bit (R12). -/
theorem fmul_of_denotes_one (hF : 0 < F.expBits) {a b : REAL F} (ha : finite a = true) (hb : Denotes b 1) :
    fmul a b = a := by
  obtain ⟨m, e, da, va, -⟩ := datum_of_finite ha
  obtain ⟨n, d, db, vb⟩ := hb.datum_of_pos one_pos
  have product : ((m * n : Nat) : ℚ) * 2 ^ (e + d) = codeValue F (magCode a) := by
    rw [← va, zpow_add₀ two_ne_zero, Nat.cast_mul, mul_mul_mul_comm, vb, mul_one]
  rw [fmul, roundReal, da, db, exactMul, rounded, roundCode_eq_of_eq hF product (finite_iff.mp ha).le, Bool.bne_false,
    encoded_negative_magCode]

/-! ## The saturator (R340 to R342) -/

theorem isNaN_satFold {x : F32} (t : F32) (h : finite x = false) : isNaN (satFold t x) = true :=
  isNaN_fsub_right _ (isNaN_fabs (isNaN_fsub_left _ (isNaN_rest_of_not_finite _ (finite_fadd_eq_false t h))))

/-- In the band, the input times the gain (R341). -/
theorem saturate_of_inside {amount shape x : F32} (inside : fle (fabs x) (satThreshold amount) = true) :
    saturate amount shape x = fmul x (fdiv fone (satThreshold amount)) := if_pos inside

/-- Outside the band, the clip moved by the shape towards the fold, times the gain (R341). -/
theorem saturate_of_outside {amount shape x : F32} (outside : fle (fabs x) (satThreshold amount) = false) :
    saturate amount shape x =
      fmul (fadd (fclamp x (fneg (satThreshold amount)) (satThreshold amount))
        (fmul shape (fsub (satFold (satThreshold amount) x)
          (fclamp x (fneg (satThreshold amount)) (satThreshold amount)))))
        (fdiv fone (satThreshold amount)) := if_neg (Bool.eq_false_iff.mp outside)

theorem satThreshold_zero : satThreshold (fnat 0 : F32) = fnat 1 := by decide +kernel

/-- An infinite threshold has the gain 0, which makes a NaN of an infinite input. -/
theorem isNaN_fmul_fdiv_of_inf {x t : F32} (h : finite x = false) (ht : datum t = .inf false) :
    isNaN (fmul x (fdiv fone t)) = true := by
  rcases isNaN_or_datum_inf h with nan | infX
  · exact isNaN_fmul_left _ nan
  obtain ⟨-, finiteOne, -⟩ := range_ends
  obtain ⟨m, e, one, -⟩ := datum_of_finite finiteOne
  have gain : fdiv fone t = encoded binary32 (negative (fone : F32) != false) 0 := by
    rw [fdiv, one, ht, exactDiv, roundReal, rounded_zero]
  obtain ⟨d, zero⟩ := datum_of_zero (F := binary32) (by decide) (magCode_encoded_zero (negative fone != false))
  exact isNaN_fmul_of_exact (by rw [gain, infX, zero, exactMul, if_pos rfl])

/-- Settles O51: in the band the threshold is infinite and the gain 0; outside it the fold is a NaN. -/
theorem saturatorGivesNaNForNonFinite : Obligations.SaturatorGivesNaNForNonFinite := by
  intro amount shape x h
  rcases inside : fle (fabs x) (satThreshold amount) with _ | _
  · rw [saturate_of_outside inside]
    exact isNaN_fmul_left _ (isNaN_fadd_right _ (isNaN_fmul_right _ (isNaN_fsub_left _ (isNaN_satFold _ h))))
  · rw [saturate_of_inside inside]
    exact isNaN_fmul_fdiv_of_inf h (datum_of_fabs_le h inside)

/-- Settles O50: the two branches of R341 as they stand, and at amount 0 the threshold and the gain are 1. -/
theorem saturatorPassesAndFolds : Obligations.SaturatorPassesAndFolds := by
  intro amount shape x
  refine ⟨saturate_of_inside, saturate_of_outside, ?_⟩
  rintro rfl inside
  have unit : fdiv (fone : F32) (fnat 1) = fnat 1 := by decide +kernel
  have one : Denotes (fnat 1 : F32) 1 := by exact_mod_cast fnat_denotes_binary32 (n := 1) (by decide)
  rw [saturate_of_inside (by rwa [satThreshold_zero]), satThreshold_zero, unit,
    fmul_of_denotes_one (by decide) (finite_of_fabs_le one.finite inside) one]

/-! ## The delay line (R345, R346) -/

/-- The value that the next sample hears: the one at the write position (R345). -/
def delayTap (s : State) : F32 := memRead s.delayBuf s.delayPos

/-- The value that a sample `x` writes: `send * x + feedback * previous + bias` (R345). -/
def delayStored (s : State) (x : F32) : F32 :=
  fadd (fadd (fmul s.params.delaySend x) (fmul s.params.delayFeedback (delayTap s))) s.config.denormalBias

section
variable (s : State) (x : F32) (xs ys : List F32)

/-- The output is the dry input plus the tap read before the write (R346). -/
theorem delayRender_output : (delayRender s x).2 = fadd x (delayTap s) := rfl

@[simp] theorem delayRender_delayBuf :
    (delayRender s x).1.delayBuf = memWrite s.delayPos (delayStored s x) s.delayBuf := rfl

@[simp] theorem delayRender_delayPos : (delayRender s x).1.delayPos = (s.delayPos + 1) % s.params.delayLength := rfl

@[simp] theorem delayRender_params : (delayRender s x).1.params = s.params := rfl

@[simp] theorem delayRun_nil : (delayRun [] s).1 = s := rfl

@[simp] theorem delayRun_cons : (delayRun (x :: xs) s).1 = (delayRun xs (delayRender s x).1).1 := rfl

theorem delayRun_append : (delayRun (xs ++ ys) s).1 = (delayRun ys (delayRun xs s).1).1 := by
  induction xs generalizing s with
  | nil => rfl
  | cons x xs ih => exact ih _

@[simp] theorem delayRun_params : (delayRun xs s).1.params = s.params := by
  induction xs generalizing s with
  | nil => rfl
  | cons x xs ih => exact ih _

@[simp] theorem delayRun_config : (delayRun xs s).1.config = s.config := by
  induction xs generalizing s with
  | nil => rfl
  | cons x xs ih => exact ih _

/-- Output `k` is sample `k` plus the tap that the samples before it leave (R346). -/
theorem delayRun_output (k : Nat) :
    (delayRun xs s).2[k]? = xs[k]?.map fun x => fadd x (delayTap (delayRun (xs.take k) s).1) := by
  induction xs generalizing s k with
  | nil => rfl
  | cons x xs ih =>
    cases k with
    | zero => rfl
    | succ k => exact ih _ k

end

section
variable {s : State}

theorem delayRun_delayBuf_wf (hbuf : s.delayBuf.wf) (xs : List F32) : (delayRun xs s).1.delayBuf.wf := by
  induction xs generalizing s with
  | nil => exact hbuf
  | cons x xs ih => exact ih (memWrite_wf hbuf _ _)

variable (inside : s.delayPos < s.params.delayLength)
include inside

theorem delayRender_inside (x : F32) : (delayRender s x).1.delayPos < (delayRender s x).1.params.delayLength :=
  Nat.mod_lt _ (Nat.zero_lt_of_lt inside)

/-- The position advances by one each sample, modulo the length (R345). -/
theorem delayRun_delayPos (xs : List F32) :
    (delayRun xs s).1.delayPos = (s.delayPos + xs.length) % s.params.delayLength := by
  induction xs generalizing s with
  | nil => exact (Nat.mod_eq_of_lt inside).symm
  | cons x xs ih =>
    rw [delayRun_cons, ih (delayRender_inside inside x), delayRender_delayPos, delayRender_params,
      Nat.mod_add_mod, List.length_cons, Nat.add_assoc, Nat.add_comm 1]

theorem delayRun_delayPos_lt (xs : List F32) : (delayRun xs s).1.delayPos < (delayRun xs s).1.params.delayLength := by
  rw [delayRun_delayPos inside, delayRun_params]
  exact Nat.mod_lt _ (Nat.zero_lt_of_lt inside)

/-- Fewer samples than the length leave the place ahead of them as it was (R345). -/
theorem memRead_delayRun_ahead (xs : List F32) {n : Nat} (before : xs.length ≤ n) (short : n < s.params.delayLength) :
    memRead (delayRun xs s).1.delayBuf ((s.delayPos + n) % s.params.delayLength) =
      memRead s.delayBuf ((s.delayPos + n) % s.params.delayLength) := by
  induction xs generalizing s n with
  | nil => rfl
  | cons x xs ih =>
    obtain ⟨n, rfl⟩ : ∃ m, n = m + 1 := Nat.exists_eq_add_one.mpr (Nat.zero_lt_of_lt before)
    have place : (s.delayPos + (n + 1)) % s.params.delayLength =
        ((delayRender s x).1.delayPos + n) % (delayRender s x).1.params.delayLength := by
      rw [delayRender_delayPos, delayRender_params, Nat.mod_add_mod, Nat.add_assoc, Nat.add_comm 1]
    have other : (s.delayPos + (n + 1)) % s.params.delayLength ≠ s.delayPos := by
      rcases Nat.lt_or_ge (s.delayPos + (n + 1)) s.params.delayLength with low | high
      · rw [Nat.mod_eq_of_lt low]
        omega
      · rw [Nat.mod_eq_sub_mod high, Nat.mod_eq_of_lt (by omega)]
        omega
    rw [delayRun_cons, place, ih (delayRender_inside inside x) (Nat.le_of_succ_le_succ before)
      (Nat.lt_of_succ_lt short), ← place, delayRender_delayBuf, memRead_memWrite_other _ other]

/-- In the first length of samples the tap is what the buffer held (R345). -/
theorem delayTap_delayRun_of_lt {xs : List F32} (short : xs.length < s.params.delayLength) :
    delayTap (delayRun xs s).1 = memRead s.delayBuf ((s.delayPos + xs.length) % s.params.delayLength) := by
  rw [delayTap, delayRun_delayPos inside, memRead_delayRun_ahead inside xs le_rfl short]

/-- After one length of samples the position is back. -/
theorem delayRun_delayPos_of_length {xs : List F32} (length : xs.length = s.params.delayLength) :
    (delayRun xs s).1.delayPos = s.delayPos := by
  rw [delayRun_delayPos inside, length, Nat.add_mod_right, Nat.mod_eq_of_lt inside]

/-- After one length of samples the tap is what the first of them stored (R345). -/
theorem delayTap_delayRun_of_length (hbuf : s.delayBuf.wf) (x : F32) {xs : List F32}
    (length : xs.length + 1 = s.params.delayLength) : delayTap (delayRun (x :: xs) s).1 = delayStored s x := by
  have next := delayRender_inside inside x
  have short : xs.length < (delayRender s x).1.params.delayLength := Nat.lt_of_succ_le length.le
  have back : ((delayRender s x).1.delayPos + xs.length) % (delayRender s x).1.params.delayLength = s.delayPos := by
    rw [← delayRun_delayPos next, ← delayRun_cons, delayRun_delayPos_of_length inside (xs := x :: xs) length]
  rw [delayRun_cons, delayTap_delayRun_of_lt next short, back, delayRender_delayBuf, memRead_memWrite_same hbuf]

end

/-- Settles O52: the tap after one length of samples (`delayTap_delayRun_of_length`). -/
theorem delayTapIsOneLengthOld : Obligations.DelayTapIsOneLengthOld := by
  intro s x y xs hbuf inside length
  refine ⟨delayRun_delayPos_of_length inside length, ?_⟩
  rw [delayRender_output, delayTap_delayRun_of_length inside hbuf x length]
  rfl

/-! ## The impulse (R348) -/

/-- What R348 starts from: send 1, feedback 0, the decided bias, a zeroed buffer and the position 0. -/
structure ImpulseReady (s : State) : Prop where
  bias : s.config.denormalBias = fratio 1 (10 ^ 18)
  send : s.params.delaySend = fnat 1
  feedback : s.params.delayFeedback = fnat 0
  length : 1 ≤ s.params.delayLength
  silent : ∀ a, memRead s.delayBuf a = fnat 0
  canonical : s.delayBuf.wf
  start : s.delayPos = 0

/-- The sums of R345 and R346 on the three values that the impulse leaves in the buffer: 1 absorbs the bias. -/
theorem impulse_sums :
    fadd (fnat 1 : F32) (fnat 0) = fnat 1 ∧ fadd (fnat 0 : F32) (fnat 0) = fnat 0 ∧
    fadd (fnat 0 : F32) (fnat 1) = fnat 1 ∧ fadd (fnat 0 : F32) (fratio 1 (10 ^ 18)) = fratio 1 (10 ^ 18) ∧
    fadd (fnat 1 : F32) (fratio 1 (10 ^ 18)) = fnat 1 := by
  decide +kernel

theorem impulse_products :
    fmul (fnat 1 : F32) (fnat 0) = fnat 0 ∧ fmul (fnat 1 : F32) (fnat 1) = fnat 1 ∧
    fmul (fnat 0 : F32) (fnat 0) = fnat 0 ∧ fmul (fnat 0 : F32) (fnat 1) = fnat 0 := by
  decide +kernel

/-- The tap after the impulse and `n` zeros. -/
def impulseTap (s : State) (n : Nat) : F32 := delayTap (delayRun (fnat 1 :: List.replicate n (fnat 0)) s).1

/-- After the impulse a zero's output is the tap. -/
theorem delayRun_impulse_succ (s : State) {n j : Nat} (le : j < n) :
    (delayRun (fnat 1 :: List.replicate n (fnat 0)) s).2[j + 1]? = some (fadd (fnat 0) (impulseTap s j)) := by
  rw [delayRun_output, List.getElem?_cons_succ, List.getElem?_replicate_of_lt le, List.take_succ_cons,
    List.take_replicate, Nat.min_eq_left le.le]
  rfl

section
variable {s : State} (h : ImpulseReady s)
include h

theorem ImpulseReady.inside : s.delayPos < s.params.delayLength := by
  rw [h.start]
  exact h.length

/-- What a sample of the run stores: itself, and nothing of the tap but its product with 0. -/
theorem ImpulseReady.delayStored_delayRun (xs : List F32) (x : F32) : delayStored (delayRun xs s).1 x =
    fadd (fadd (fmul (fnat 1) x) (fmul (fnat 0) (delayTap (delayRun xs s).1))) (fratio 1 (10 ^ 18)) := by
  rw [delayStored, delayRun_params, delayRun_config, h.send, h.feedback, h.bias]

theorem ImpulseReady.impulseTap_of_lt {n : Nat} (lt : n + 1 < s.params.delayLength) : impulseTap s n = fnat 0 := by
  rw [impulseTap, delayTap_delayRun_of_lt h.inside (by simpa using lt), h.silent]

theorem ImpulseReady.impulseTap_of_eq {n : Nat} (eq : n + 1 = s.params.delayLength) : impulseTap s n = fnat 1 := by
  have stored := h.delayStored_delayRun [] (fnat 1)
  rw [delayRun_nil, delayTap, h.silent] at stored
  obtain ⟨oneZero, -, -, -, oneBias⟩ := impulse_sums
  obtain ⟨-, timesOne, noneZero, -⟩ := impulse_products
  rw [impulseTap, delayTap_delayRun_of_length h.inside h.canonical _ (by simpa using eq), stored, timesOne, noneZero,
    oneZero, oneBias]

/-- In the second length of samples the tap is the bias that the zeros of the first have stored. -/
theorem ImpulseReady.impulseTap_of_gt {n : Nat} (gt : s.params.delayLength < n + 1)
    (le : n + 1 ≤ 2 * s.params.delayLength) : impulseTap s n = fratio 1 (10 ^ 18) := by
  obtain ⟨m, rfl⟩ := Nat.exists_eq_add_of_le (Nat.le_of_lt_succ gt)
  obtain ⟨l, length⟩ := Nat.exists_eq_add_one.mpr h.length
  have split : fnat 1 :: List.replicate (s.params.delayLength + m) (fnat 0 : F32) =
      (fnat 1 :: List.replicate m (fnat 0)) ++ (fnat 0 :: List.replicate l (fnat 0)) := by
    rw [List.cons_append, ← List.replicate_succ, List.replicate_append_replicate, length, Nat.add_comm]
  obtain ⟨-, zeroZero, -, zeroBias, -⟩ := impulse_sums
  obtain ⟨timesZero, -, noneZero, noneOne⟩ := impulse_products
  have silent : fmul (fnat 0) (impulseTap s m) = fnat 0 := by
    rcases (show m + 1 ≤ s.params.delayLength by omega).lt_or_eq with lt | eq
    · rw [h.impulseTap_of_lt lt, noneZero]
    · rw [h.impulseTap_of_eq eq, noneOne]
  rw [impulseTap, split, delayRun_append,
    delayTap_delayRun_of_length (delayRun_delayPos_lt h.inside _) (delayRun_delayBuf_wf h.canonical _) _
      (by simp [length]),
    h.delayStored_delayRun, ← impulseTap, silent, timesZero, zeroZero, zeroBias]

end

/-- Settles O54: the outputs are the sums of the inputs and the taps (`delayRun_output`): of the zeroed buffer up to
the length, of the impulse there, and of the bias after it. -/
theorem impulseReturnsAfterOneLength : Obligations.ImpulseReturnsAfterOneLength := by
  intro s bias send feedback length silent canonical start k le
  have ready : ImpulseReady s := ⟨bias, send, feedback, length, silent, canonical, start⟩
  obtain ⟨oneZero, zeroZero, zeroOne, zeroBias, -⟩ := impulse_sums
  cases k with
  | zero =>
    rw [if_pos (.inl rfl), delayRun_output]
    exact congrArg some ((congrArg (fadd _) (silent _)).trans oneZero)
  | succ j =>
    rw [delayRun_impulse_succ s (Nat.lt_of_succ_le le)]
    rcases Nat.lt_trichotomy (j + 1) s.params.delayLength with lt | eq | gt
    · rw [if_neg (by omega), if_pos lt, ready.impulseTap_of_lt lt, zeroZero]
    · rw [if_pos (.inr eq), ready.impulseTap_of_eq eq, zeroOne]
    · rw [if_neg (by omega), if_neg gt.not_gt, ready.impulseTap_of_gt gt le, zeroBias, bias]

/-! ## The length (R347, R354) -/

/-- The control clamps its operand, stores it and changes nothing else (R354). -/
theorem exec_setDelayLength (u : U32) (s : State) : exec (.setDelayLength u) s =
    .next { s with params := { s.params with delayLength := clampDelayLength s.config u } } := rfl

section
variable {c : EngineConfig binary32} (room : 1 ≤ delayCap c) (u : U32)
include room

theorem clampDelayLength_bounds : 1 ≤ clampDelayLength c u ∧ clampDelayLength c u ≤ delayCap c :=
  ⟨le_min (Nat.le_max_right ..) room, Nat.min_le_right ..⟩

theorem clampDelayLength_eq : clampDelayLength c u =
    if u.toNat = 0 then 1 else if delayCap c < u.toNat then delayCap c else u.toNat := by
  rw [clampDelayLength]
  split_ifs <;> omega

end

/-- Settles O28: the stored length is the clamp of R354. -/
theorem setDelayLengthClamps : Obligations.SetDelayLengthClamps :=
  fun u s => ⟨rfl, fun room => ⟨_, exec_setDelayLength u s, clampDelayLength_eq room u⟩⟩

/-- Settles O53: the next position is taken modulo the new length, which is not 0 and not above DELAY_CAP. -/
theorem delayLengthChangeKeepsTheBuffer : Obligations.DelayLengthChangeKeepsTheBuffer := by
  intro u s room
  obtain ⟨positive, bounded⟩ := clampDelayLength_bounds room u
  have below := Nat.mod_lt (s.delayPos + 1) positive
  exact ⟨_, exec_setDelayLength u s, fun _ => rfl, rfl, fun x => ⟨rfl, below, below.trans_le bounded⟩⟩

end Sys2Proof.Machine
end

section
/-! PROOFS of the family 46_voice.md: the level controls (R350 to R353, R410, R411), the target pitch (R393), the
notification (R394), and the reaction to a disabled step and to a slide step (R395, R396). -/

namespace Sys2Proof.Machine

variable {F : Format}

/-! ## The level controls (R350 to R353, R410, R411) -/

/-- A control that stores its sanitised operand in one register does what R25 asks. -/
theorem writesClamped_of_exec {i : F32 → Instr} {write : F32 → Params binary32 → Params binary32} {lo hi : F32}
    (read : Params binary32 → F32) (write_read : ∀ p, write (read p) p = p)
    (finiteLo : finite lo = true) (finiteHi : finite hi = true) (order : fle lo hi = true)
    (control : ∀ (v : F32) (s : State), exec (i v) s =
      .next (updateParams (fun p => write (sanitise lo hi (read p) v) p) s)) : Claims.WritesClamped i write lo hi := by
  refine fun v s => ⟨fun notFinite => ?_, fun finiteV => ⟨fclamp v lo hi, ?_, ?_, fclamp_clamped order v⟩⟩
  · rw [control, updateParams, sanitise, if_neg (Bool.eq_false_iff.mp notFinite), write_read]
  · rw [control, updateParams, sanitise, if_pos finiteV, convert_self]
  · exact fclamp_inRange finiteV finiteLo finiteHi order

/-- Settles O27: each of the six controls stores its sanitised operand. -/
theorem levelControlsClamp : Obligations.LevelControlsClamp := by
  obtain ⟨finiteZero, finiteOne, finiteMost, -, unit, -, most, -⟩ := range_ends
  unfold Obligations.LevelControlsClamp
  rw [fnat_zero]
  exact ⟨writesClamped_of_exec (·.decay) (fun _ => rfl) finiteOne finiteMost most fun _ _ => rfl,
    writesClamped_of_exec (·.accentDepth) (fun _ => rfl) finiteZero finiteOne unit fun _ _ => rfl,
    writesClamped_of_exec (·.distShape) (fun _ => rfl) finiteZero finiteOne unit fun _ _ => rfl,
    writesClamped_of_exec (·.distAmount) (fun _ => rfl) finiteZero finiteOne unit fun _ _ => rfl,
    writesClamped_of_exec (·.delaySend) (fun _ => rfl) finiteZero finiteOne unit fun _ _ => rfl,
    writesClamped_of_exec (·.delayFeedback) (fun _ => rfl) finiteZero finiteOne unit fun _ _ => rfl⟩

/-! ## Exact sums of integers (R12) -/

section
variable (hF : 0 < F.expBits)
include hF

/-- An encoding of an integer is the one that `fint` gives, unless it is the negative zero. -/
theorem eq_fint_of_denotes {a : REAL F} {z : ℤ} (ha : Denotes a z) (zero : z = 0 → negative a = false) :
    a = fint z := by
  have nonneg := codeValue_nonneg (F := F) (magCode a)
  have eq : signed (negative a) (codeValue F (magCode a)) = z := ha.value
  have magnitude : roundCode F z.natAbs 0 = magCode a := by
    refine roundCode_eq_of_eq hF ?_ (finite_iff.mp ha.finite).le
    rw [zpow_zero, mul_one, Nat.cast_natAbs, Int.cast_abs, ← eq, abs_signed _ nonneg]
  have sign : negative a = decide (z < 0) := by
    cases h : negative a <;> rw [h] at eq
    · rw [signed_false] at eq
      have : (0 : ℚ) ≤ z := eq ▸ nonneg
      exact (decide_eq_false (not_lt.mpr (by exact_mod_cast this))).symm
    · rw [signed_true] at eq
      have : (z : ℚ) ≤ 0 := by linarith
      have nonzero : z ≠ 0 := fun hz => by simp [zero hz] at h
      exact (decide_eq_true (lt_of_le_of_ne (by exact_mod_cast this) nonzero)).symm
  rw [fint, magnitude, ← sign, encoded_negative_magCode]

theorem fint_denotes {z : ℤ} (h : Representable F z) : Denotes (fint z : REAL F) z := by
  rw [fint]
  exact rounded_denotes hF (neg := decide (z < 0)) 0#F.width (by rw [signed_natAbs, zpow_zero, mul_one]) h

theorem negative_fint {z : ℤ} (h : Representable F z) : negative (fint z : REAL F) = decide (z < 0) := by
  obtain ⟨c, finite, code⟩ := h
  rw [fint, roundCode_eq_of_eq hF (c := c) (by rw [code, zpow_zero, mul_one, Nat.cast_natAbs, Int.cast_abs]) finite.le,
    negative_encoded _ finite.le]

end

/-- An exact sum of 0 is negative only where both operands are. -/
theorem exactAdd_eq_zero {a b : Bool} {m n : Nat} {e d : ℤ} (h : signed a (m * 2 ^ e) + signed b (n * 2 ^ d) = 0) :
    exactAdd (.fin a m e) (.fin b n d) = .fin (a && b) 0 (min e d) := by
  rw [← alignedInt_mul_quantum a m (min_le_left e d), ← alignedInt_mul_quantum b n (min_le_right e d), ← add_mul,
    ← Int.cast_add, mul_eq_zero, or_iff_left (quantum_pos _).ne', Int.cast_eq_zero] at h
  exact if_pos h

section
variable {a b : REAL F} {x : ℚ} (ha : Denotes a x)
include ha

theorem negative_fadd_of_zero (hb : Denotes b (-x)) : negative (fadd a b) = (negative a && negative b) := by
  obtain ⟨m, e, da, va, -⟩ := datum_of_finite ha.finite
  obtain ⟨n, d, db, vb, -⟩ := datum_of_finite hb.finite
  have zero : signed (negative a) (m * 2 ^ e) + signed (negative b) (n * 2 ^ d) = 0 := by
    rw [va, vb, ← value, ← value, ha.value, hb.value, add_neg_cancel]
  rw [fadd, roundReal, da, db, exactAdd_eq_zero zero, rounded_zero, negative_encoded_zero]

theorem negative_fsub_of_zero (hb : Denotes b x) : negative (fsub a b) = (negative a && !negative b) := by
  obtain ⟨m, e, da, va, -⟩ := datum_of_finite ha.finite
  obtain ⟨n, d, db, vb, -⟩ := datum_of_finite hb.finite
  have zero : signed (negative a) (m * 2 ^ e) + signed (!negative b) (n * 2 ^ d) = 0 := by
    rw [signed_not, va, vb, ← value, ← value, ha.value, hb.value, add_neg_cancel]
  rw [fsub, roundReal, da, db, exactNeg, exactAdd_eq_zero zero, rounded_zero, negative_encoded_zero]

end

section
variable {y z : ℤ} (hy : y.natAbs < 2 ^ 23) (hz : z.natAbs < 2 ^ 23)
include hy hz

theorem fadd_fint : fadd (fint y) (fint z) = (fint (y + z) : F32) := by
  have hF : 0 < binary32.expBits := by decide
  have ry : Representable binary32 y := representable_int_binary32 (by omega)
  have rz : Representable binary32 z := representable_int_binary32 (by omega)
  have rsum : Representable binary32 (y + z : ℤ) := representable_int_binary32 (by omega)
  have sum := fadd_denotes hF (fint_denotes hF ry) (fint_denotes hF rz)
  rw [← Int.cast_add] at sum
  refine eq_fint_of_denotes hF (sum rsum) fun zero => ?_
  obtain rfl : z = -y := by omega
  rw [negative_fadd_of_zero (fint_denotes hF ry) (by exact_mod_cast fint_denotes hF rz), negative_fint hF ry,
    negative_fint hF rz, ← Bool.decide_and, decide_eq_false (by omega)]

theorem fsub_fint : fsub (fint y) (fint z) = (fint (y - z) : F32) := by
  have hF : 0 < binary32.expBits := by decide
  have ry : Representable binary32 y := representable_int_binary32 (by omega)
  have rz : Representable binary32 z := representable_int_binary32 (by omega)
  have rdiff : Representable binary32 (y - z : ℤ) := representable_int_binary32 (by omega)
  have diff := fsub_denotes hF (fint_denotes hF ry) (fint_denotes hF rz)
  rw [← Int.cast_sub] at diff
  refine eq_fint_of_denotes hF (diff rdiff) fun zero => ?_
  obtain rfl : z = y := by omega
  rw [negative_fsub_of_zero (fint_denotes hF ry) (fint_denotes hF ry), Bool.and_not_self]

end

theorem fint_natCast (n : Nat) : (fint n : REAL F) = fnat n := by
  rw [fint, fnat, Int.natAbs_natCast, decide_eq_false (by omega)]

/-- Flipping a bit above a number adds it, as `fneg` does with the sign bit. -/
theorem xor_two_pow_of_lt {c k : Nat} (h : c < 2 ^ k) : c ^^^ 2 ^ k = 2 ^ k + c := by
  have disjoint : 2 ^ k + c = 2 ^ k ||| c := by simpa using Nat.two_pow_add_eq_or_of_lt h 1
  rw [disjoint]
  refine Nat.eq_of_testBit_eq fun i => ?_
  rw [Nat.testBit_xor, Nat.testBit_or, Nat.testBit_two_pow]
  by_cases eq : k = i
  · subst eq
    simp [Nat.testBit_lt_two_pow h]
  · simp [eq]

theorem fneg_encoded_false {c : Nat} (hc : c < infCode F) : fneg (encoded F false c) = encoded F true c := by
  have number : isNaN (encoded F false c) = false :=
    isNaN_eq_false_of_finite (denotes_encoded false hc).finite
  have bound := hc.trans (infCode_lt_signWeight F)
  rw [fneg, if_neg (Bool.eq_false_iff.mp number)]
  refine BitVec.eq_of_toNat_eq ?_
  rw [BitVec.toNat_xor, toNat_encoded _ hc.le, toNat_encoded _ hc.le, toNat_encoded _ (Nat.zero_le _)]
  simpa [withSign, signWeight] using xor_two_pow_of_lt bound

theorem fneg_fnat {n : Nat} (positive : 0 < n) (h : n < 2 ^ 24) : fneg (fnat n) = (fint (-n) : F32) := by
  obtain ⟨c, finite, code⟩ := representable_int_binary32 (z := n) h
  have magnitude : roundCode binary32 n 0 = c :=
    roundCode_eq_of_eq (by decide) (by rw [code]; simp) finite.le
  rw [fint, fnat, Int.natAbs_neg, Int.natAbs_natCast, decide_eq_true (by omega), magnitude, fneg_encoded_false finite]

/-! ## The target pitch (R393) -/

theorem targetPitch_eq_fint (st : Step) : (targetPitch st : F32) = fint (movedPitch st) := by
  have bound := st.pitch.isLt
  have octave : (fnat 12 : F32) = fint 12 := (fint_natCast 12).symm
  rw [targetPitch, movedPitch, octave, ← fint_natCast]
  cases st.octaveDown <;> cases st.octaveUp
  · simp
  · simp [fadd_fint (y := st.pitch.toNat) (z := 12) (by omega) (by decide)]
  · simp [fsub_fint (y := st.pitch.toNat) (z := 12) (by omega) (by decide)]
  · simp [fsub_fint (y := st.pitch.toNat) (z := 12) (by omega) (by decide),
      fadd_fint (y := st.pitch.toNat - 12) (z := 12) (by omega) (by decide)]

/-- Settles O44, by the two flags: the pitch moved in the integers (`targetPitch_eq_fint`), and read as the rule's REAL. -/
theorem octaveFlagsMoveThePitchByTwelve : Obligations.OctaveFlagsMoveThePitchByTwelve := by
  intro st
  have bound := st.pitch.isLt
  rw [targetPitch_eq_fint, movedPitch]
  cases st.octaveDown <;> cases st.octaveUp
  · simp [fint_natCast]
  · simp [← fint_natCast]
  · simp only [if_true, Bool.false_eq_true, if_false, add_zero]
    split
    · rw [← fint_natCast, Nat.cast_sub ‹_›]
      rfl
    · rw [fneg_fnat (by omega) (by omega), Nat.cast_sub (by omega), neg_sub]
      rfl
  · simp [fint_natCast]

/-! ## The notification of a step (R394) -/

/-- The bytes of a notification (R110, R394). -/
theorem encode_stepChanged_position (p : Fin Config.maxSteps) :
    encode (.stepChanged (BitVec.ofNat 32 p.val)) = [0x3C#8, BitVec.ofNat 8 p.val, 0#8, 0#8, 0#8] := by
  revert p
  decide

/-- A notification writes NOTIFY and the log only. -/
theorem pushNotify_eq_with (p : Fin Config.maxSteps) (s : State) :
    { pushNotify p s with notify := s.notify, notifyLen := s.notifyLen, log := s.log } = s := by
  obtain ⟨-, pushed⟩ | ⟨-, pushed⟩ := pushNotify_cases p s
  · rw [pushed]
  · rw [pushed, logSkip]

/-- Settles O55, by whether the stream has room. -/
theorem notificationIsTheEncodedStep : Obligations.NotificationIsTheEncodedStep := by
  intro p s wf
  obtain ⟨appended, -⟩ := pushNotify_notifies p wf rfl ⟨rfl, rfl, rfl⟩
  obtain ⟨room, pushed⟩ | ⟨full, pushed⟩ := pushNotify_cases p s
  · refine ⟨fun _ => ?_, fun full => absurd room (Nat.not_le.mpr full)⟩
    obtain ⟨bytes, len, -, others⟩ := appended room
    exact ⟨encode_stepChanged_position p ▸ bytes, len, others, by rw [pushed]⟩
  · exact ⟨fun room => absurd room (Nat.not_le.mpr full), fun _ => pushed⟩

/-! ## The reaction to a step (R391, R395, R396) -/

/-- A sample at which no step is emitted (R390). -/
theorem voiceSequence_of_none {s : State} {q : Sequencer}
    (advance : seqAdvance s.config s.params.tempo s.seq = (q, none)) : voiceSequence s = { s with seq := q } := by
  simp only [voiceSequence, advance]

/-- A disabled step only notifies (R395). -/
theorem voiceSequence_of_disabled {s : State} {q : Sequencer} {p : Fin Config.maxSteps} {st : Step}
    (advance : seqAdvance s.config s.params.tempo s.seq = (q, some (p, st))) (disabled : st.enabled = false) :
    voiceSequence s = pushNotify p { s with seq := q } := by
  simp only [voiceSequence, advance, onStep, disabled, Bool.false_eq_true, if_false]

/-- Settles O56, by what the advance emits. -/
theorem restOnlyNotifies : Obligations.RestOnlyNotifies := by
  refine fun s q => ⟨voiceSequence_of_none, fun p st wf advance disabled => ?_⟩
  obtain ⟨-, -, seq, -⟩ := pushNotify_frame p { s with seq := q }
  rw [voiceSequence_of_disabled advance disabled]
  exact ⟨seq, pushNotify_notifies p wf rfl ⟨rfl, rfl, rfl⟩,
    congrArg (fun u : State => { u with seq := s.seq }) (pushNotify_eq_with p { s with seq := q })⟩

/-- A slide step starts a glide and leaves both envelopes (R212, R396). -/
theorem playStep_of_slide {st : Step} (slide : st.slide = true) (s : State) :
    (playStep st s).osc = oscSlide s.config s.params.waveform (targetPitch st) s.osc ∧
    (playStep st s).ampEnv = s.ampEnv ∧ (playStep st s).filtEnv = s.filtEnv := by
  rw [playStep, slide]
  exact ⟨rfl, rfl, rfl⟩

/-- The notification of an enabled step keeps what the played step left of the voice, and is the rule's (R391, R394). -/
theorem voiceSequence_of_enabled_voice {s : State} {q : Sequencer} {p : Fin Config.maxSteps} {st : Step}
    (wf : s.notify.wf) (advance : seqAdvance s.config s.params.tempo s.seq = (q, some (p, st)))
    (enabled : st.enabled = true) :
    (voiceSequence s).osc = (playStep st { s with seq := q }).osc ∧
    SameEnvelopes (playStep st { s with seq := q }) (voiceSequence s) ∧ Claims.Notifies p s (voiceSequence s) := by
  obtain ⟨control, notify, -⟩ := playStep_frame st { s with seq := q }
  obtain ⟨-, -, -, osc, envelopes⟩ := pushNotify_frame p (playStep st { s with seq := q })
  obtain ⟨ampEnv, filtEnv, ampMul, filtMul, accent⟩ := envelopes
  rw [voiceSequence_of_enabled advance enabled]
  exact ⟨osc, ⟨ampEnv, filtEnv, ampMul, filtMul, accent⟩,
    pushNotify_notifies p wf control.config ⟨notify.notify, notify.notifyLen, notify.log⟩⟩

/-- Settles O57: what a slide step writes (`playStep_of_slide`), and that its notification keeps it. -/
theorem slideStepIsLegato : Obligations.SlideStepIsLegato := by
  intro s q p st wf advance enabled slide t
  obtain ⟨osc, envelopes, notifies⟩ := voiceSequence_of_enabled_voice wf advance enabled
  obtain ⟨ampEnv, filtEnv, ampMul, filtMul, accent⟩ := envelopes
  obtain ⟨glide, ampEnv', filtEnv'⟩ := playStep_of_slide slide { s with seq := q }
  obtain ⟨accent', ampMul', filtMul'⟩ := playStep_envelopes st { s with seq := q }
  obtain ⟨-, -, seq⟩ := voiceSequence_frame s
  rw [ampEnv, ampEnv', filtEnv, filtEnv', osc, glide, accent, filtMul, ampMul]
  exact ⟨rfl, rfl, rfl, rfl, incOf_eq_increment .., rfl, rfl, noteIndex_targetPitch st, rfl, accent', ampMul',
    filtMul', seq.trans (congrArg Prod.fst advance), notifies, voiceSequence_eq_with s⟩

end Sys2Proof.Machine
end

section
/-! PROOFS of the family 60_exceptions.md: the construction's two outcomes (R434), and progress from every other state
(R431, R445). -/

namespace Sys2Proof.Machine

/-! ## Progress (R431, R434, R445) -/

/-- An idle engine that no host calls stays as it is (R445). -/
theorem step_of_no_call {s : State} (idle : s.stage = .idle) (uncalled : s.host = []) : step s = .next s := by
  simp only [step_idle idle, stepIdle, uncalled]

/-- An idle engine always has a next state: its own, or the one after the host's move. -/
theorem stepIdle_progress (s : State) : ∃ t, stepIdle s = .next t := by
  unfold stepIdle
  split
  case h_1 => exact ⟨s, rfl⟩
  case h_2 c rest _ => exact ⟨hostMove c { s with host := rest }, rfl⟩

/-- A decode step always has a next state, for no instruction stops the machine (R431) and a stream that does not decode
ends the phase (R144). -/
theorem stepDecode_progress (pos : Nat) (s : State) : ∃ t, stepDecode exec pos s = .next t := by
  unfold stepDecode
  split
  case h_1 i _ _ =>
    obtain ⟨t, applied, -⟩ := exec_shape i { s with stage := .decode (pos + i.size) }
    exact ⟨t, applied⟩
  case h_2 => exact ⟨endDecode s, rfl⟩

/-- Only the failed construction has no next state, whatever the stage (R434). -/
theorem step_progress {s : State} (constructible : s.stage ≠ .constructing false) : ∃ t, step s = .next t := by
  cases stage : s.stage with
  | constructing resources =>
    cases resources with
    | false => exact absurd stage constructible
    | true => exact ⟨_, step_constructing stage⟩
  | idle => exact step_idle stage ▸ stepIdle_progress s
  | decode pos => exact step_decode stage ▸ stepDecode_progress pos s
  | render i => exact ⟨_, step_render stage⟩

/-- Settles O10: both outcomes of the construction are `stepConstruct`, and every other stage has its progress lemma. -/
theorem onlyAFailedConstructionStops : Obligations.OnlyAFailedConstructionStops :=
  fun _ => ⟨step_constructing, step_constructing, step_progress, step_of_no_call⟩

/-- Settles O14: the host has no move to make. -/
theorem idleEngineKeepsItsState : Obligations.IdleEngineKeepsItsState :=
  fun _ => step_of_no_call

end Sys2Proof.Machine
end

section
/-! PROOFS of the family 70_reset_and_hazards.md: the construction state (R461), its legality (R464) and `initialize()`
(R462). -/

namespace Sys2Proof.Machine

/-! ## `initialize()` (R462) -/

/-- The step that takes a call of `initialize()` from the host's list. -/
theorem step_initialize {s : State} {rest : List HostCall} (idle : s.stage = .idle)
    (call : s.host = .callInitialize :: rest) : step s = .next (initializeEngine { s with host := rest }) := by
  simp only [step_idle idle, stepIdle, call, hostMove]

/-- A restarted sample counter stands at a control tick (R398). -/
theorem isControlTick_initializeEngine (s : State) : isControlTick (initializeEngine s) = true := rfl

section
variable (c : EngineConfig binary32) (tempo : F32) {q : Sequencer} (running : q.running = true)
include running

/-- A running sequencer whose counter restarts emits nothing before its step length. -/
theorem seqRun_restarted_of_lt_stepLength {n : Nat} (inside : n < q.stepLength.toNat) :
    (seqRun c tempo n { q with counter := 0#32 }).2 = [] := by
  have count : (0#32).toNat + n < q.stepLength.toNat := by simpa using inside
  exact congrArg Prod.snd (seqRun_inside_step c tempo n (q := { q with counter := 0#32 }) running count)

/-- A running sequencer whose counter restarts emits one step at its step length. -/
theorem length_seqRun_restarted_of_stepLength (positive : 1 ≤ q.stepLength.toNat) :
    (seqRun c tempo q.stepLength.toNat { q with counter := 0#32 }).2.length = 1 := by
  obtain ⟨k, run⟩ := seqRun_whole_step c tempo (q := { q with counter := 0#32 }) running rfl positive
  exact congrArg (·.2.length) run

end

/-- Settles O12: the step is `initializeEngine`, from whose restarted counter the sequencer runs a whole step. -/
theorem initializeRestartsTheCounters : Obligations.InitializeRestartsTheCounters :=
  fun s _ idle call => ⟨_, step_initialize idle call, rfl, isControlTick_initializeEngine _,
    fun running positive tempo =>
      ⟨fun _ inside => seqRun_restarted_of_lt_stepLength s.config tempo running inside,
        length_seqRun_restarted_of_stepLength s.config tempo running positive⟩⟩

/-! ## The construction table (R461) -/

/-- The table's decimals that are whole numbers are the REAL values nearest them (log 8). -/
theorem construction_decimals :
    (fratio 500 1 : F32) = fnat 500 ∧ (fratio 300 1 : F32) = fnat 300 ∧ (fratio 120 1 : F32) = fnat 120 := by
  decide +kernel

/-- A memory with nothing written in it is 0 everywhere. -/
@[simp] theorem memRead_nil {w : Nat} (a : Nat) : memRead ([] : Memory w) a = 0 := rfl

/-- An output that no sample has written is +0.0 everywhere. -/
theorem readSample_nil (i : Nat) : readSample [] i = fzero := by
  simp only [readSample, memRead_nil]
  decide

theorem emptyPattern_step (i : Fin Config.maxSteps) : emptyPattern.steps[i] = emptyStep :=
  Vector.getElem_replicate ..

/-- Every pattern of the bank is constructed empty (R41). -/
theorem eq_emptyPattern_of_mem_construct {c : EngineConfig binary32} {p : Pattern}
    (h : p ∈ (Sequencer.construct c).patterns) : p = emptyPattern :=
  List.eq_of_mem_replicate h

/-- The step length that R461 works out for the decided SR and tempo. -/
theorem reset_stepLength : State.reset.seq.stepLength = 5512#32 := by decide +kernel

/-- Settles O15: the rows in the table's order, once its decimals are written as `State.construct` writes them; R7's
decided values are closed numbers, which the kernel compares. -/
theorem constructionStateIsAsListed : Obligations.ConstructionStateIsAsListed := by
  refine ⟨fun c => ?_, rfl, by decide +kernel, reset_stepLength, rfl⟩
  obtain ⟨cutoff, decay, tempo⟩ := construction_decimals
  have patterns : ∀ p ∈ (Sequencer.construct c).patterns,
      p.length.val = 16 ∧ ∀ i : Fin Config.maxSteps, p.steps[i] = emptyStep := by
    intro p hp
    obtain rfl := eq_emptyPattern_of_mem_construct hp
    exact ⟨rfl, emptyPattern_step⟩
  rw [fnat_zero, cutoff, decay, tempo, ← stepLengthOf_eq_stepLength, ← ladderDesign_eq_redesigned]
  exact ⟨rfl, fun _ => Stage.noConfusion, rfl,
    -- the parameter registers
    rfl, rfl, rfl, rfl, rfl, rfl, rfl, rfl, rfl, rfl, rfl, rfl,
    -- the sequencer
    rfl, rfl, rfl, rfl, rfl, rfl, List.length_replicate, patterns,
    -- the oscillator
    rfl, rfl, rfl, rfl, rfl, rfl, rfl,
    -- the filters
    rfl, rfl, rfl, rfl, rfl, rfl,
    -- the sweep, the envelopes and the accent
    rfl, rfl, rfl, rfl, rfl, rfl,
    -- the sample counter, the delay, the regions and the log
    rfl, memRead_nil, rfl, memRead_nil, readSample_nil, readSample_nil, memRead_nil, rfl, rfl⟩

/-! ## The construction state is legal (R464) -/

theorem decidedConfig_legal : ConfigLegal (decidedConfig binary32) where
  sampleRate := by decide
  tableLen := by decide
  blockLen := by decide
  cmdCap := by decide
  notifyCap := by decide
  numPatterns := by decide
  glideTicks := by decide
  fMax := by decide +kernel

/-- The registers' construction values lie between the ends of their ranges (R24). The cutoff's upper end F_MAX is the
engine's own. -/
theorem construction_values_inRange :
    finite (fnat 500 : F32) = true ∧ inRange (fzero : F32) fone fhalf ∧ inRange (fzero : F32) fone fzero ∧
    inRange (fone : F32) (fnat 60000) (fnat 300) ∧ inRange (fzero : F32) (fnat 1000000) (fnat 120) ∧
    flt (fzero : F32) (fnat 120) = true := by
  decide +kernel

theorem Params.construct_legal {c : EngineConfig binary32} (hc : ConfigLegal c) :
    (Params.construct c).Legal c := by
  obtain ⟨finiteCutoff, half, zero, decay, tempo, tempoPositive⟩ := construction_values_inRange
  obtain ⟨-, -, -, -, -, cutoffLow, -⟩ := range_ends
  have rate : 4 ≤ c.sampleRate := hc.sampleRate.1
  exact {
    cutoff := ⟨finiteCutoff, cutoffLow, hc.fMax.2⟩
    resonance := half
    envMod := half
    decay := decay
    accentDepth := half
    distShape := zero
    distAmount := zero
    delaySend := zero
    delayFeedback := zero
    delayLength := by
      simp only [Params.construct, delayCap]
      omega
    tempo := tempo
    tempoPositive := tempoPositive }

theorem Sequencer.construct_legal {c : EngineConfig binary32} (hc : ConfigLegal c) :
    (Sequencer.construct c).Legal c where
  bank := List.length_replicate
  length p hp := by
    rw [eq_emptyPattern_of_mem_construct hp]
    decide
  currentPattern := hc.numPatterns.1
  nextPattern := hc.numPatterns.1
  stepLength := one_le_stepLengthOf c (fnat 120)
  counter := one_le_stepLengthOf c (fnat 120)

theorem Memory.within_nil {w : Nat} (size : Nat) : Memory.Within ([] : Memory w) size where
  canonical := ⟨List.Pairwise.nil, List.forall_mem_nil _⟩
  inside := List.forall_mem_nil _

theorem State.construct_legal {c : EngineConfig binary32} (hc : ConfigLegal c) : (State.construct c).Legal where
  config := hc
  stage := rfl
  cursor := Nat.zero_le _
  params := Params.construct_legal hc
  seq := Sequencer.construct_legal hc
  glideLeft := Nat.zero_le _
  cmd := Memory.within_nil _
  outL := Memory.within_nil _
  stereo := rfl
  notify := Memory.within_nil _
  delayBuf := Memory.within_nil _
  delayPos := Nat.mul_pos two_pos (Nat.lt_of_lt_of_le (by decide) hc.sampleRate.1)
  notifyLen := ⟨rfl, Nat.zero_le _⟩
  noOverflow _ := List.forall_mem_nil _

/-- Settles O16: the decided parameters are legal, and construction at legal ones is. -/
theorem constructionStateIsLegal : Obligations.ConstructionStateIsLegal :=
  ⟨decidedConfig_legal, fun _ => State.construct_legal⟩

end Sys2Proof.Machine
end
